-- ==== Sys2Proof/Word.lean ====
section
/-!
DEFINITION. The words of the block: times, frames, and the decoded tuple.
-/

namespace Sys2Proof

/-- A time or a difference of times, in microseconds, 32 bits (R9: `TS_BITS` = 32, `Config.tsBits`).
`a -t b` and `a +t b` of R9 are the subtraction and the addition of this type, modulo 2^32. -/
abbrev Time := BitVec 32

/-- A 40-bit frame `F[39:0]` (R8; `FRAME_BITS` = 40, `Config.frameBits`): `F[39]` is the first payload bit on the wire. -/
abbrev Frame := BitVec 40

/-- A (key, channel, command, power) tuple, at the widths of the ports (R36, R94, R95). -/
structure Tuple where
  key   : BitVec 16
  chan  : BitVec 2
  cmd   : BitVec 3
  power : BitVec 8
  deriving DecidableEq, Repr

end Sys2Proof
end

