-- ==== Sys2Proof/Config.lean ====
section
/-!
DEFINITION. The parameters of R7: what the spec fixes, and the three OPEN parameters, which are
opaque constants (no value of theirs can be proved).
-/

namespace Sys2Proof.Config

open Sys2Proof

/-- `FRAME_BITS` of R7: the bits stored in a frame. -/
@[simp] abbrev frameBits : Nat := 40
/-- `WIRE_BITS` of R7: the bit symbols after the start symbol, the trailer among them. -/
@[simp] abbrev wireBits : Nat := 41
/-- `TS_BITS` of R7 and D1: the width of every time. -/
@[simp] abbrev tsBits : Nat := 32
/-- `POLL_PERIOD_US` of R7, about 100: guidance for the caller of RX_SAMPLE, which the block does not read. -/
def pollPeriodUs : Nat := 100

/-- The width of `Frame` is `FRAME_BITS` (R7, R8). -/
theorem frame_width : Frame = BitVec frameBits := rfl
/-- The width of `Time` is `TS_BITS` (R7, R9). -/
theorem time_width : Time = BitVec tsBits := rfl

/-- `T_START_ON`, `T_START_OFF` of R7 and R90. -/
def tStartOn : Time := 1500#32
def tStartOff : Time := 750#32
/-- `T_ONE_ON`, `T_ONE_OFF` of R7 and R90. -/
def tOneOn : Time := 750#32
def tOneOff : Time := 250#32
/-- `T_ZERO_ON`, `T_ZERO_OFF` of R7 and R90. -/
def tZeroOn : Time := 250#32
def tZeroOff : Time := 750#32
/-- `T_GAP` of R7: the inter-packet silence of R155. -/
def tGap : Time := 9000#32
/-- `TX_OVERHEAD_US` of R7: the correction `C` of R156. -/
def txOverhead : Time := 2#32
/-- `W_ZERO_LO`, `W_ZERO_HI` of R7, exclusive bounds. -/
def wZeroLo : Nat := 100
def wZeroHi : Nat := 400
/-- `W_ONE_LO`, `W_ONE_HI` of R7, exclusive bounds. -/
def wOneLo : Nat := 600
def wOneHi : Nat := 900
/-- `W_START_LO` of R7, exclusive bound. -/
def wStartLo : Nat := 1300
/-- `W_START_HI` of R7: the reset value of `w_start_hi` (R44, R50). -/
def wStartHi : BitVec 12 := 1800#12
/-- `DUR_MIN`, `DUR_MAX` of R7, inclusive bounds. -/
def durMin : Nat := 37000
def durMax : Nat := 42000
/-- `REPEAT_WINDOW` of R7. -/
def repeatWindow : Nat := 120000
/-- `RX_IDLE` of R7 and `TX_IDLE` of R25: both 63. -/
def rxIdle : BitVec 6 := 63#6
def txIdle : BitVec 6 := 63#6
/-- `KEY_ANY` of R7. -/
def keyAny : BitVec 16 := 0#16
/-- The slot of R92: 250 microseconds. -/
def slot : Time := 250#32
/-- `KEEPALIVE_INTERVAL` of R7, in seconds, and `KEEPALIVE_REPEATS`. -/
def keepaliveInterval : Nat := 120
def keepaliveRepeats : Nat := 3

/-- `TX_KEY_DEFAULT` of R7: OPEN (D26, U12); log entry 10. -/
opaque txKeyDefault : BitVec 16
/-- `BUDGET_UNIT_US` of R7: OPEN (D22, U11); log entry 10. -/
opaque budgetUnitUs : Nat
/-- `KEEPALIVE_POWER` of R7: OPEN (D27, U13); log entry 10. -/
opaque keepalivePower : BitVec 8

end Sys2Proof.Config
end

