-- ==== Sys2Proof/Syntax.lean ====
section
/-!
DEFINITION. The instructions: one constructor per row of spec/opcode_table.json, in the table's order.
-/

namespace Sys2Proof

/-- The 26 rows of the table: eight frame types (R93), three wire symbols (R90), fifteen operations (R12).
Operands have the widths of the ports (R70) or of the row. -/
inductive Instr where
  /-- LED.1 (R121) -/
  | led1 (key : BitVec 16) (power : BitVec 8)
  /-- BEEP.1 (R122) -/
  | beep1 (key : BitVec 16) (power : BitVec 8)
  /-- VIBRATE.1 (R123) -/
  | vibrate1 (key : BitVec 16) (power : BitVec 8)
  /-- ZAP.1 (R124) -/
  | zap1 (key : BitVec 16) (power : BitVec 8)
  /-- LED.2 (R125) -/
  | led2 (key : BitVec 16) (power : BitVec 8)
  /-- BEEP.2 (R126) -/
  | beep2 (key : BitVec 16) (power : BitVec 8)
  /-- VIBRATE.2 (R127) -/
  | vibrate2 (key : BitVec 16) (power : BitVec 8)
  /-- ZAP.2 (R128) -/
  | zap2 (key : BitVec 16) (power : BitVec 8)
  /-- START (R90, R91, R92, R194) -/
  | start
  /-- ONE (R90, R91, R92, R195) -/
  | one
  /-- ZERO (R90, R91, R92, R195) -/
  | zero
  /-- ENCODE (R120) -/
  | encode (key : BitVec 16) (chan : BitVec 2) (cmd : BitVec 3) (power : BitVec 8)
  /-- DECODE (R130) -/
  | decode (frame : Frame) (filter : BitVec 16)
  /-- EMIT (R150); its `t0` is read from the clock -/
  | emit (frame : Frame)
  /-- SESSION_RUN (R170); `budget` is a 32-bit signed number (R171), `cancelEn` and `cancel` are the ports of R174 -/
  | sessionRun (cmd : BitVec 3) (sel : BitVec 2) (power : BitVec 8) (budget : BitVec 32) (cancelEn cancel : Bool)
  /-- KEEPALIVE_TICK (R178) -/
  | keepaliveTick
  /-- RX_SAMPLE (R190) -/
  | rxSample (level : Bool) (t : Time)
  /-- RX_RISE (R191) -/
  | rxRise (t : Time)
  /-- RX_FALL (R192) -/
  | rxFall (t : Time)
  /-- CLASSIFY (R193) -/
  | classify (w : Time)
  /-- RX_START (R194) -/
  | rxStart (t : Time)
  /-- RX_BIT (R195) -/
  | rxBit (b : Bool) (t : Time)
  /-- RX_COMPLETE (R196) -/
  | rxComplete (t : Time)
  /-- RX_REPORT (R199) -/
  | rxReport (d : Tuple) (t : Time)
  /-- RESET (R260) -/
  | reset
  /-- CFG_WRITE (R45); `no` is a register number, which the 2-bit port of R70 cannot make larger than 3 -/
  | cfgWrite (no : Nat) (value : BitVec 16)
  deriving DecidableEq, Repr

end Sys2Proof
end

