-- ==== Sys2Proof/WellFormed.lean ====
section
/-!
DEFINITION. Which instructions can arrive at the block's boundary. Operand widths are in the types; two
checks remain. Every meaning is total all the same (R13): an ill-formed instruction is one no caller can make.
-/

namespace Sys2Proof

/-- A tuple DECODE can return (R135): channel 1 or 2, command 1 to 4. -/
def Tuple.decodable (d : Tuple) : Bool :=
  (d.chan == 1#2 || d.chan == 2#2) && (decide (1 ≤ d.cmd.toNat) && decide (d.cmd.toNat ≤ 4))

/-- CFG_WRITE's register number fits its 2-bit port (R70); RX_REPORT's tuple is a result of DECODE (R199). -/
def WellFormed : Instr → Bool
  | .led1 _ _ => true
  | .beep1 _ _ => true
  | .vibrate1 _ _ => true
  | .zap1 _ _ => true
  | .led2 _ _ => true
  | .beep2 _ _ => true
  | .vibrate2 _ _ => true
  | .zap2 _ _ => true
  | .start => true
  | .one => true
  | .zero => true
  | .encode _ _ _ _ => true
  | .decode _ _ => true
  | .emit _ => true
  | .sessionRun _ _ _ _ _ _ => true
  | .keepaliveTick => true
  | .rxSample _ _ => true
  | .rxRise _ => true
  | .rxFall _ => true
  | .classify _ => true
  | .rxStart _ => true
  | .rxBit _ _ => true
  | .rxComplete _ => true
  | .rxReport d _ => d.decodable
  | .reset => true
  | .cfgWrite no _ => decide (no < 4)

end Sys2Proof
end

