-- ==== Sys2Proof/Decode.lean ====
section
/-!
DEFINITION. What arrives at the block's boundary (`Request`), and the decoder from it to `Instr`:
40-bit words by the match and mask of R93, symbols by the slot strings of R92, operations by their strobe
and operand ports (R70, R105: an operation has no bit pattern). Then the encoder, from the same tables.
-/

namespace Sys2Proof

/-- The operation a strobe asks for: one per OP row of the table (R12, R105). -/
inductive OpName where
  | encode | decode | emit | sessionRun | keepaliveTick | rxSample | rxRise | rxFall | classify
  | rxStart | rxBit | rxComplete | rxReport | reset | cfgWrite
  deriving DecidableEq, Repr

/-- The values on the operand ports (R70) when a strobe comes; an operation reads the ones that are its own. -/
structure Operands where
  key      : BitVec 16 := 0#16
  chan     : BitVec 2 := 0#2
  cmd      : BitVec 3 := 0#3
  power    : BitVec 8 := 0#8
  frame    : Frame := 0#40
  filter   : BitVec 16 := 0#16
  sel      : BitVec 2 := 0#2
  budget   : BitVec 32 := 0#32
  cancelEn : Bool := false
  cancel   : Bool := false
  level    : Bool := false
  t        : Time := 0#32
  w        : Time := 0#32
  b        : Bool := false
  no       : BitVec 2 := 0#2
  value    : BitVec 16 := 0#16
  deriving DecidableEq, Repr

/-- One request at the boundary, in one of the table's three formats. -/
inductive Request where
  /-- FRAME40: a 40-bit word on the wire (R80). -/
  | frame (f : Frame)
  /-- SYMBOL: a string of 250 us slots on the wire, `true` = on, first slot first (R92). -/
  | slots (s : List Bool)
  /-- OP: a strobe with the operand ports (R70). -/
  | op (o : OpName) (x : Operands)
  deriving DecidableEq, Repr

/-- Why a request is no row of the table. The names of the two frame checks are those of R231. -/
inductive DecodeError where
  /-- the channel field and its complement are neither pair of R85 (R133) -/
  | badChannel
  /-- the mode and its complement are no pair of R86 (R134) -/
  | badMode
  /-- the slot string is none of the three of R92 -/
  | notASymbol
  deriving DecidableEq, Repr

/-- The mask of R93: bytes 0 and 4 are fixed. -/
def frameMask : Frame := 0xFF000000FF#40

/-- The eight rows of R93: match word and the instruction with key and power filled in. -/
def frameRows : List (Frame × (BitVec 16 → BitVec 8 → Instr)) :=
  [ (0x88000000EE#40, .led1), (0x84000000DE#40, .beep1),
    (0x82000000BE#40, .vibrate1), (0x810000007E#40, .zap1),
    (0xF8000000E0#40, .led2), (0xF4000000D0#40, .beep2),
    (0xF2000000B0#40, .vibrate2), (0xF100000070#40, .zap2) ]

/-- The key field `F[31:16]` (R80, R82). -/
def frameKey (f : Frame) : BitVec 16 := f.extractLsb' 16 16
/-- The power field `F[15:8]` (R80, R83). -/
def framePower (f : Frame) : BitVec 8 := f.extractLsb' 8 8

/-- A 40-bit word by the rows of R93; the reject is named by the checks of R133 and R134, in that order. -/
def decodeFrame (f : Frame) : Except DecodeError Instr :=
  match frameRows.find? (fun r => f &&& frameMask == r.1) with
  | some r => .ok (r.2 (frameKey f) (framePower f))
  | none =>
    if f &&& 0xF00000000F#40 == 0x800000000E#40 || f &&& 0xF00000000F#40 == 0xF000000000#40 then
      .error .badMode
    else .error .badChannel

/-- The slot strings of R92: START `111111000`, ONE `1110`, ZERO `1000`. -/
def startSlots : List Bool := [true, true, true, true, true, true, false, false, false]
def oneSlots : List Bool := [true, true, true, false]
def zeroSlots : List Bool := [true, false, false, false]

def decodeSlots (s : List Bool) : Except DecodeError Instr :=
  if s = startSlots then .ok .start
  else if s = oneSlots then .ok .one
  else if s = zeroSlots then .ok .zero
  else .error .notASymbol

/-- An operation reads the operand ports that are its own (R70). -/
def decodeOp (o : OpName) (x : Operands) : Instr :=
  match o with
  | .encode => .encode x.key x.chan x.cmd x.power
  | .decode => .decode x.frame x.filter
  | .emit => .emit x.frame
  | .sessionRun => .sessionRun x.cmd x.sel x.power x.budget x.cancelEn x.cancel
  | .keepaliveTick => .keepaliveTick
  | .rxSample => .rxSample x.level x.t
  | .rxRise => .rxRise x.t
  | .rxFall => .rxFall x.t
  | .classify => .classify x.w
  | .rxStart => .rxStart x.t
  | .rxBit => .rxBit x.b x.t
  | .rxComplete => .rxComplete x.t
  | .rxReport => .rxReport ⟨x.key, x.chan, x.cmd, x.power⟩ x.t
  | .reset => .reset
  | .cfgWrite => .cfgWrite x.no.toNat x.value

/-- The decoder, total on requests. -/
def decode : Request → Except DecodeError Instr
  | .frame f => decodeFrame f
  | .slots s => decodeSlots s
  | .op o x => .ok (decodeOp o x)

/-- A frame row's word: its match with the key and the power in their fields (R80, R93). -/
def frameWord (pat : Frame) (key : BitVec 16) (power : BitVec 8) : Frame :=
  pat ||| (key.setWidth 40 <<< 16) ||| (power.setWidth 40 <<< 8)

/-- The encoder: what stands at the boundary when the instruction is asked for. -/
def encode : Instr → Request
  | .led1 key power => .frame (frameWord 0x88000000EE#40 key power)
  | .beep1 key power => .frame (frameWord 0x84000000DE#40 key power)
  | .vibrate1 key power => .frame (frameWord 0x82000000BE#40 key power)
  | .zap1 key power => .frame (frameWord 0x810000007E#40 key power)
  | .led2 key power => .frame (frameWord 0xF8000000E0#40 key power)
  | .beep2 key power => .frame (frameWord 0xF4000000D0#40 key power)
  | .vibrate2 key power => .frame (frameWord 0xF2000000B0#40 key power)
  | .zap2 key power => .frame (frameWord 0xF100000070#40 key power)
  | .start => .slots startSlots
  | .one => .slots oneSlots
  | .zero => .slots zeroSlots
  | .encode key chan cmd power => .op .encode { key, chan, cmd, power }
  | .decode frame filter => .op .decode { frame, filter }
  | .emit frame => .op .emit { frame }
  | .sessionRun cmd sel power budget cancelEn cancel =>
    .op .sessionRun { cmd, sel, power, budget, cancelEn, cancel }
  | .keepaliveTick => .op .keepaliveTick {}
  | .rxSample level t => .op .rxSample { level, t }
  | .rxRise t => .op .rxRise { t }
  | .rxFall t => .op .rxFall { t }
  | .classify w => .op .classify { w }
  | .rxStart t => .op .rxStart { t }
  | .rxBit b t => .op .rxBit { b, t }
  | .rxComplete t => .op .rxComplete { t }
  | .rxReport d t => .op .rxReport { key := d.key, chan := d.chan, cmd := d.cmd, power := d.power, t }
  | .reset => .op .reset {}
  | .cfgWrite no value => .op .cfgWrite { no := BitVec.ofNat 2 no, value }

/-- The low `n` bits of `w`, most significant first: a slot string of R92 read as a number. -/
def slotsOf (w : Nat) : Nat → List Bool
  | 0 => []
  | n + 1 => w.testBit n :: slotsOf w n

/-- The request a table row's bits stand for: more than 16 bits are a frame (40), 9 to 16 the nine
slots of START, up to 8 the four slots of ONE and ZERO, each numbered as the table writes it. -/
def tableRequest (nbits w : Nat) : Request :=
  if 16 < nbits then .frame (BitVec.ofNat 40 w)
  else if 8 < nbits then .slots (slotsOf w 9)
  else .slots (slotsOf w 4)

/-- The instruction the decoder reads from a table row's bits. -/
def decodeTableWord (nbits w : Nat) : Option Instr :=
  match decode (tableRequest nbits w) with
  | .ok i => some i
  | .error _ => none

end Sys2Proof
end

