-- ==== Sys2Proof/Machine/State.lean ====
section
/-!
DEFINITION. The state of the block (R20, R44), what it hands back, and the environment's data:
plain data throughout. Every field of the spec carries its name there and its rule.
-/

namespace Sys2Proof.Machine

open Sys2Proof

/-- The block has no fault (R13: "The block has no fault, no trap, no stuck state and no refusal of its own").
There is no constructor: nobody raises one. -/
inductive Fault where
  deriving DecidableEq, Repr

/-- Reasons a step can be refused. -/
inductive Refusal where
  /-- raised by `exec` only, for an instruction that has no meaning yet (none is left); safe -/
  | notModelled (mnemonic : String)
  deriving DecidableEq, Repr

/-- The three wire symbols (R90). -/
inductive Symbol where
  | start | one | zero
  deriving DecidableEq, Repr

/-- The classes of a received pulse width (R91, R193). -/
inductive PulseClass where
  | noise
  | bit (b : Bool)
  | start
  deriving DecidableEq, Repr

/-- The result of one RX_SAMPLE call (R41, R97). -/
inductive RxResult where
  | none | new | repeated
  deriving DecidableEq, Repr

/-- The result of SESSION_RUN (R43, R98). -/
inductive SesResult where
  | ok | error | cancelled
  deriving DecidableEq, Repr

/-- The thirteen abnormal conditions, by the names of R231. -/
inductive Reason where
  | invalidChannel | invalidCommand | sessionEncodeFailed | sessionNoChannel | sentinelFrame
  | noiseWidth | strayBit | truncatedFrame | badDuration | keyMismatch | badChannel | badMode
  | cancelled
  deriving DecidableEq, Repr

/-- The view of `rx_count` of R39. `undefined` is for 41..62, which never occur. -/
inductive RxState where
  | idle | accumulating | complete | undefined
  deriving DecidableEq, Repr

/-- The two output lines (R23, R24). -/
inductive Line where
  | txOut | txActive
  deriving DecidableEq, Repr

/-- What an observer of the transmit side sees, in order (R6, R10 `drive`, R103); ghost, log entry 11. -/
inductive Wave where
  /-- `drive(line, level, t)` of R10 -/
  | edge (line : Line) (level : Bool) (t : Time)
  /-- an emission of `f` began at `t` (R150) -/
  | emitted (f : Frame) (t : Time)
  /-- that emission returned at `t` (R159) -/
  | returned (t : Time)
  /-- cancelPoll was invoked and answered (R174) -/
  | polled (answer : Bool) (t : Time)
  /-- the session returned (R175) -/
  | sessionEnded (r : SesResult) (t : Time)
  deriving DecidableEq, Repr

/-- One result handed back to a caller (R249). -/
inductive Delivery where
  /-- ENCODE: `enc_frame`, `enc_valid` (R40, R98) -/
  | encoded (frame : Frame) (valid : Bool)
  /-- DECODE: the tuple, or no decode (R130) -/
  | decoded (d : Option Tuple)
  /-- CLASSIFY (R193) -/
  | classified (c : PulseClass)
  /-- one RX_SAMPLE call or sub-step: `rx_result` (R41) -/
  | rx (r : RxResult)
  /-- SESSION_RUN: `ses_result` (R43) -/
  | session (r : SesResult)
  /-- EMIT's return to the host (R249) -/
  | emitReturned
  deriving DecidableEq, Repr

/-- The transmit group of R20. -/
structure TxGroup where
  /-- `tx_key` (R22) -/
  key      : BitVec 16
  /-- `tx_frame` (R21) -/
  frame    : Frame
  /-- `tx_sym` (R25) -/
  sym      : BitVec 6
  /-- `tx_deadline` (R26) -/
  deadline : Time
  /-- `tx_out` (R23) -/
  out      : Bool
  /-- `tx_active` (R24) -/
  active   : Bool
  /-- the model's own: the silence of R155 has begun (log entry 3) -/
  gap      : Bool
  /-- the model's own: `f_k` of R154 and R156, the time of the present or the last falling edge (log entry 3) -/
  fallAt   : Time
  /-- the model's own: the present or the last emission is that of a host's EMIT and not a session's (log entry 3) -/
  byHost   : Bool
  deriving DecidableEq, Repr

/-- Where the session loop of R173 stands; the model's own (log entry 4). -/
inductive SesPhase where
  | idle
  /-- at steps (1) and (2): the cancellation and the budget check -/
  | check
  /-- at step (3): `ses_frame[i]` is next -/
  | round (i : Nat)
  deriving DecidableEq, Repr

/-- The session's elements of R28, the operands it latches (R71 (b)) and its result ports (R70). -/
structure SesGroup where
  /-- `ses_frame[0]` (R28) -/
  frame0    : Frame
  /-- `ses_frame[1]` (R28) -/
  frame1    : Frame
  /-- `ses_n` (R28) -/
  n         : BitVec 2
  /-- `ses_t_begin` (R28) -/
  tBegin    : Time
  /-- `ses_round` (R28) -/
  round     : BitVec 32
  /-- `ses_result` (R43) -/
  result    : SesResult
  /-- `ses_done` (R70) -/
  done      : Bool
  /-- the model's own: the loop's place -/
  phase     : SesPhase
  /-- the model's own: the budget operand, latched (R71 (b), R171) -/
  budget    : BitVec 32
  /-- the model's own: whether a cancellation predicate was provided (R174) -/
  cancelEn  : Bool
  /-- the model's own: KEEPALIVE_TICK issued this session (R178, log entry 15) -/
  keepalive : Bool
  deriving DecidableEq, Repr

/-- A call of the transmit agent that waits for its turn, with its operands (R68 (1), log entry 30). -/
inductive TxCall where
  /-- EMIT (R150) -/
  | emit (f : Frame)
  /-- SESSION_RUN (R170) -/
  | session (cmd : BitVec 3) (sel : BitVec 2) (power : BitVec 8) (budget : BitVec 32) (cancelEn cancel : Bool)
  /-- KEEPALIVE_TICK (R178) -/
  | keepalive
  deriving DecidableEq, Repr

/-- The keep-alive elements of R29. -/
structure KaGroup where
  /-- `ka_mask` (R29) -/
  mask  : BitVec 2
  /-- `ka_t_last` (R29), in the seconds of `now_s()` (log entry 15) -/
  tLast : BitVec 32
  deriving DecidableEq, Repr

/-- The receive group of R20 (the DecoderSession), one per receive instance. -/
structure RxGroup where
  /-- `rx_last_level` (R30) -/
  lastLevel : Bool
  /-- `rx_count` (R31) -/
  count     : BitVec 6
  /-- `rx_buf` (R32) -/
  buf       : Frame
  /-- `rx_t_rise` (R33) -/
  tRise     : Time
  /-- `rx_t_start` (R34) -/
  tStart    : Time
  /-- `rx_t_end` (R35) -/
  tEnd      : Time
  /-- `rx_last` (R36) -/
  last      : Tuple
  /-- `rx_last_valid` (R37) -/
  lastValid : Bool
  /-- `rx_key_filter` (R38) -/
  keyFilter : BitVec 16
  /-- `w_start_hi` (R44), each instance its own, since instances share nothing (R11, R68 (4); log entry 18) -/
  wStartHi  : BitVec 12
  deriving DecidableEq, Repr

/-- One turn of the environment (R11 agent 3, R14, R235; log entries 1 and 2). -/
inductive Turn where
  /-- the host makes a request -/
  | call (r : Request)
  /-- the clock runs on to `t` -/
  | clock (t : Time)
  /-- the host's seconds clock of R178 shows `t` -/
  | seconds (t : BitVec 32)
  /-- the `cancel` port takes a level (R174) -/
  | cancel (b : Bool)
  /-- a new receive instance is created, in its reset state, and put under the receive ports (R252) -/
  | newInstance
  /-- the next receive instance is put under the receive ports (R252) -/
  | nextInstance
  deriving DecidableEq, Repr

/-- What a step of one receive instance gives: its next group, its result, and the reason of a discard (R231). -/
structure RxOut where
  rx     : RxGroup
  result : RxResult
  reason : Option Reason
  deriving DecidableEq, Repr

/-- What a run of RX_SAMPLE calls gives: the last group, the results in call order, the reasons in order. -/
structure RxRun where
  rx      : RxGroup
  results : List RxResult
  reasons : List Reason
  deriving DecidableEq, Repr

/-- The whole state. Block: `tx`, `ses`, `txCalls`, `ka`, `rx`, `rxOthers`. What the last step handed back:
`delivered`. Environment data: `clock`, `hostSeconds`, `cancel`, `draws`, `script`. Ghost: `waves`, `reasons`. -/
structure State where
  tx          : TxGroup
  ses         : SesGroup
  /-- the transmit agent's calls that wait for those before them to return, in the order of invocation (R68 (1),
  log entry 30) -/
  txCalls     : List TxCall
  ka          : KaGroup
  /-- the receive instance under the receive ports -/
  rx          : RxGroup
  /-- the other receive instances (R252) -/
  rxOthers    : List RxGroup
  /-- the results the last step handed back, in order (R41, R67, R249) -/
  delivered   : List Delivery
  /-- `time_us`, the value `now()` reads (R10, R70) -/
  clock       : Time
  /-- `now_s()` of R178 -/
  hostSeconds : BitVec 32
  /-- the `cancel` port (R70, R174) -/
  cancel      : Bool
  /-- the draws (j_k, o_k) of R156 for the pulses to come; where the list ends, pulses are nominal (R154) -/
  draws       : List (Time × Time)
  /-- the environment's turns to come, the next one first -/
  script      : List Turn
  /-- what the transmit side has shown so far, oldest first -/
  waves       : List Wave
  /-- the reasons met in the last step (R231) -/
  reasons     : List Reason
  deriving DecidableEq, Repr

/-- The transmit group after RESET (R50); `tx_deadline` and the model's own fields by log entries 3 and 8. -/
def TxGroup.reset : TxGroup :=
  { key := Config.txKeyDefault, frame := 0#40, sym := Config.txIdle, deadline := 0#32,
    out := false, active := false, gap := false, fallAt := 0#32, byHost := false }

/-- The session group after RESET: R50 leaves it unspecified (log entries 8 and 15); result ports by log entry 9. -/
def SesGroup.reset : SesGroup :=
  { frame0 := 0#40, frame1 := 0#40, n := 0#2, tBegin := 0#32, round := 0#32, result := .ok, done := false,
    phase := .idle, budget := 0#32, cancelEn := false, keepalive := false }

/-- The keep-alive group after RESET (R50). -/
def KaGroup.reset : KaGroup := { mask := 0#2, tLast := 0#32 }

/-- A receive group after RESET (R50). -/
def RxGroup.reset : RxGroup :=
  { lastLevel := false, count := Config.rxIdle, buf := 0#40, tRise := 0#32, tStart := 0#32, tEnd := 0#32,
    last := ⟨0#16, 0#2, 0#3, 0#8⟩, lastValid := false, keyFilter := Config.keyAny,
    wStartHi := Config.wStartHi }

/-- The state right after reset (R50, R260), with nothing in the environment's script. The inputs of R49, which
the block does not reset (R250), start here at a value of the model's choice (log entry 29, DESIGN CHOICE): the
clock and the host's seconds at 0, the `cancel` port at 0, no draws, no turns. -/
def State.reset : State :=
  { tx := TxGroup.reset, ses := SesGroup.reset, txCalls := [], ka := KaGroup.reset, rx := RxGroup.reset,
    rxOthers := [], delivered := [], clock := 0#32, hostSeconds := 0#32, cancel := false,
    draws := [], script := [], waves := [], reasons := [] }

/-- What a meaning answers. -/
abbrev Answer := Host.Outcome State Fault Refusal

end Sys2Proof.Machine
end

