-- ==== Sys2Proof/Machine/Ops.lean ====
section
/-!
DEFINITION. The named operations every meaning uses: time (R9, R10), frame buffers (R61, R65), the output
lines (R10 `drive`), the discard (R10), and handing back results.
The block has no memory (R60) and no exception entry or return (R241, R242): `discard` stands in their place.
-/

namespace Sys2Proof.Machine

open Sys2Proof

/-- `wait_until(t)` of R10 is over: `now -t t` is in `[0, 2^31)`. -/
def reached (now t : Time) : Bool := decide ((now - t).toNat < 2 ^ 31)

/-- The later of two times, in the sense of `reached` (the `max` of R156). -/
def later (a b : Time) : Time := if reached a b then a else b

/-- `F[i]` (R8). -/
def bitAt (f : Frame) (i : Nat) : Bool := f.getLsbD i

/-- `F[i] <- b` (R10, R61). -/
def setBit (f : Frame) (i : Nat) (b : Bool) : Frame :=
  if b then f ||| (1#40 <<< i) else f &&& ~~~(1#40 <<< i)

/-- `MemRead(addr, 1)` of R10: byte `k` of a frame buffer, `F[39-8k : 32-8k]`. -/
def byteAt (f : Frame) (k : Nat) : BitVec 8 := f.extractLsb' (32 - 8 * k) 8

/-- `MemWrite(addr, 1, v)` of R10. -/
def setByte (f : Frame) (k : Nat) (v : BitVec 8) : Frame :=
  (f &&& ~~~(0xFF#40 <<< (32 - 8 * k))) ||| (v.setWidth 40 <<< (32 - 8 * k))

/-- The payload bits in wire order, `F[39]` first (R61, R62). -/
def wireBits (f : Frame) : List Bool := (List.range Config.frameBits).map fun n => bitAt f (Config.frameBits - 1 - n)

/-- `discard(reason)` of R10: the call returns NONE with the receive group as it is written by then. -/
def discard (reason : Reason) (rx : RxGroup) : RxOut := { rx, result := .none, reason := some reason }

/-- A receive step that returns NONE with nothing discarded. -/
def quietly (rx : RxGroup) : RxOut := { rx, result := .none, reason := none }

/-- Hands back results `ds`, having met the reasons `rs`; replaces what the step before handed back (R67). -/
def State.answer (s : State) (ds : List Delivery) (rs : List Reason) : State :=
  { s with delivered := ds, reasons := rs }

/-- Adds to what the transmit side has shown. -/
def State.show (s : State) (ws : List Wave) : State := { s with waves := s.waves ++ ws }

/-- The clock shows `m`, unless it has reached `m` before. -/
def State.clockTo (s : State) (m : Time) : State := { s with clock := later s.clock m }

/-- Puts the outcome of one receive call in place. -/
def State.takeRx (s : State) (o : RxOut) : State :=
  { s with rx := o.rx, delivered := [.rx o.result], reasons := o.reason.toList }

end Sys2Proof.Machine
end

