-- ==== Sys2Proof/Machine/Operands.lean ====
section
/-!
DEFINITION. Operand assembly: the channel and mode tables (R85, R86), operand codes (R94 to R96), symbol
shapes (R90), and the symbol sequence of a frame (R89, R152).
-/

namespace Sys2Proof.Machine

open Sys2Proof

/-- R85: a channel's code and complement; R94: 0 and 3 are no channel of a frame. -/
def channelCode (chan : BitVec 2) : Option (BitVec 3 × BitVec 3) :=
  if chan = 1#2 then some (0b000#3, 0b111#3)
  else if chan = 2#2 then some (0b111#3, 0b000#3)
  else none

/-- R86: a command's mode and complement; R95: 0, 5, 6, 7 are no command. -/
def modeCode (cmd : BitVec 3) : Option (BitVec 4 × BitVec 4) :=
  if cmd = 1#3 then some (0b1000#4, 0b1110#4)
  else if cmd = 2#3 then some (0b0100#4, 0b1101#4)
  else if cmd = 3#3 then some (0b0010#4, 0b1011#4)
  else if cmd = 4#3 then some (0b0001#4, 0b0111#4)
  else none

/-- R133: the decoder's channel field `F[39:36]` and complement `F[3:0]` give the channel. -/
def channelOf (field compl : BitVec 4) : Option (BitVec 2) :=
  if field = 0b1000#4 ∧ compl = 0b1110#4 then some 1#2
  else if field = 0b1111#4 ∧ compl = 0b0000#4 then some 2#2
  else none

/-- R134: the mode/complement pair gives the command. -/
def commandOf (mode modec : BitVec 4) : Option (BitVec 3) :=
  if mode = 0b1000#4 ∧ modec = 0b1110#4 then some 1#3
  else if mode = 0b0100#4 ∧ modec = 0b1101#4 then some 2#3
  else if mode = 0b0010#4 ∧ modec = 0b1011#4 then some 3#3
  else if mode = 0b0001#4 ∧ modec = 0b0111#4 then some 4#3
  else none

/-- R96, R176: the channels a selector names, ascending. -/
def selected (sel : BitVec 2) : List (BitVec 2) :=
  (if sel.getLsbD 0 then [1#2] else []) ++ (if sel.getLsbD 1 then [2#2] else [])

/-- R90: on-duration of a symbol. -/
def Symbol.on : Symbol → Time
  | .start => Config.tStartOn
  | .one => Config.tOneOn
  | .zero => Config.tZeroOn

/-- R90: off-duration of a symbol. -/
def Symbol.off : Symbol → Time
  | .start => Config.tStartOff
  | .one => Config.tOneOff
  | .zero => Config.tZeroOff

/-- The symbol of a bit (R89). -/
def Symbol.ofBit (b : Bool) : Symbol := if b then .one else .zero

/-- R152: `SYM(k)` of the frame being sent. -/
def symbolAt (f : Frame) (k : Nat) : Symbol :=
  if k = 0 then .start
  else if k ≤ Config.frameBits then Symbol.ofBit (bitAt f (Config.frameBits - k))
  else .zero

/-- R89: START, the 40 bit symbols, the trailer. -/
def frameSymbols (f : Frame) : List Symbol :=
  .start :: ((wireBits f).map Symbol.ofBit ++ [.zero])

/-- `PULSE w @t` of R104, as (level, time) samples. -/
def pulse (w t : Time) : List (Bool × Time) := [(true, t), (false, t + w)]

/-- `SYMBOLS` of R104: a pulse of nominal on-width for each symbol, at the running time. -/
def symbolSamples : List Symbol → Time → List (Bool × Time)
  | [], _ => []
  | y :: ys, t => pulse y.on t ++ symbolSamples ys (t + (y.on + y.off))

/-- A string of slots (R92) sampled once a slot from `t` on (R248: samples without a change are harmless). -/
def slotSamples : List Bool → Time → List (Bool × Time)
  | [], _ => []
  | b :: bs, t => (b, t) :: slotSamples bs (t + Config.slot)

end Sys2Proof.Machine
end

