-- ==== Sys2Proof/Machine/Control.lean ====
section
/-!
DEFINITION. Control operations: CFG_WRITE (R45) and RESET (R260).
-/

namespace Sys2Proof.Machine

open Sys2Proof

/-- The register write of R44 and R45: the value truncated to the register's width; other numbers are ignored.
Numbers 1 and 3 are registers of the receive instance under the ports (log entries 17 and 18). -/
def writeConfig (no : Nat) (value : BitVec 16) (s : State) : State :=
  if no = 0 then { s with tx := { s.tx with key := value } }
  else if no = 1 then { s with rx := { s.rx with keyFilter := value } }
  else if no = 2 then { s with ka := { s.ka with mask := value.setWidth 2 } }
  else if no = 3 then { s with rx := { s.rx with wStartHi := value.setWidth 12 } }
  else s

/-- CFG_WRITE (R45). -/
def execCfgWrite (no : Nat) (value : BitVec 16) (s : State) : Answer :=
  .next ((writeConfig no value s).answer [] [])

/-- The lines that are on fall when RESET comes (R260: an emission ends at once with `tx_out` = 0). -/
def resetEdges (s : State) : List Wave :=
  (if s.tx.out then [.edge .txOut false s.clock] else []) ++
  (if s.tx.active then [.edge .txActive false s.clock] else [])

/-- RESET (R260): every element of the block, of every receive instance, at the value of R50. The clock and the
rest of the environment go on (R250). The caller of an EMIT or of a session that RESET cuts off, or whose
call waits, gets nothing back: no return, no result, and no record of one, which the spec leaves open (D32; log
entry 16, DESIGN CHOICE). -/
def execReset (s : State) : Answer :=
  .next { s with
    tx := TxGroup.reset
    ses := SesGroup.reset
    txCalls := []
    ka := KaGroup.reset
    rx := RxGroup.reset
    rxOthers := s.rxOthers.map fun _ => RxGroup.reset
    delivered := []
    waves := s.waves ++ resetEdges s
    reasons := [] }

end Sys2Proof.Machine
end

