-- ==== Sys2Proof/Machine/Flags.lean ====
section
/-!
DEFINITION. Flags, derived views and result codes: R27, R38, R39, R40, R42, R97, R98.
-/

namespace Sys2Proof.Machine

open Sys2Proof

/-- The lead-in bit of a frame: `enc_valid` of R40, the only bit EMIT tests (R151). -/
def leadIn (f : Frame) : Bool := bitAt f 39

/-- `tx_busy` (R27): `tx_sym` differs from 63. -/
def TxGroup.busy (tx : TxGroup) : Bool := tx.sym != Config.txIdle

/-- The session loop is running. -/
def SesGroup.running (ses : SesGroup) : Bool := ses.phase != .idle

/-- With `tx_busy` = 0: an operation of the transmit agent invoked earlier has not returned yet, a session that runs
or a call that waits (R68 (1)). -/
def State.callsUnfinished (s : State) : Bool := s.ses.running || !s.txCalls.isEmpty

/-- `rx_state` (R39). -/
def RxGroup.state (rx : RxGroup) : RxState :=
  if rx.count.toNat < Config.frameBits then .accumulating
  else if rx.count = BitVec.ofNat 6 Config.frameBits then .complete
  else if rx.count = Config.rxIdle then .idle
  else .undefined

/-- "Paired" mode (R38, R245). -/
def RxGroup.paired (rx : RxGroup) : Bool := rx.keyFilter != Config.keyAny

/-- `rx_result` codes (R97). -/
def RxResult.code : RxResult → BitVec 2
  | .none => 0#2
  | .new => 1#2
  | .repeated => 2#2

/-- `ses_result` codes (R98). -/
def SesResult.code : SesResult → BitVec 2
  | .ok => 0#2
  | .error => 1#2
  | .cancelled => 2#2

/-- The decoded-command outputs `rx_key`, `rx_chan`, `rx_cmd`, `rx_power` (R42). -/
def State.commandOutputs (s : State) : Tuple := s.rx.last

end Sys2Proof.Machine
end

