-- ==== Sys2Proof/Machine/Codec.lean ====
section
/-!
DEFINITION. PacketCodec (40_packet_codec.md): ENCODE (R120) and DECODE (R130).
-/

namespace Sys2Proof.Machine

open Sys2Proof

/-- R80: the fields of a frame, lead-in bit first, `F[0]` = 0 last. -/
def assemble (chc : BitVec 3) (mode : BitVec 4) (key : BitVec 16) (power : BitVec 8)
    (modec : BitVec 4) (chcc : BitVec 3) : Frame :=
  1#1 ++ chc ++ mode ++ key ++ power ++ modec ++ chcc ++ 0#1

/-- ENCODE of R120: the frame and `valid`; an invalid channel or command gives the all-zero sentinel (R88). -/
def packetEncode (key : BitVec 16) (chan : BitVec 2) (cmd : BitVec 3) (power : BitVec 8) : Frame × Bool :=
  match channelCode chan, modeCode cmd with
  | some (chc, chcc), some (mode, modec) => (assemble chc mode key power modec chcc, true)
  | _, _ => (0#40, false)

/-- The names of ENCODE's parameter errors (R231); both when both hold. -/
def encodeReasons (chan : BitVec 2) (cmd : BitVec 3) : List Reason :=
  (if (channelCode chan).isSome then [] else [.invalidChannel]) ++
  (if (modeCode cmd).isSome then [] else [.invalidCommand])

/-- DECODE of R130: key, channel, mode checks in the order of R131. -/
def packetDecode (f : Frame) (filter : BitVec 16) : Except Reason Tuple :=
  if filter ≠ Config.keyAny ∧ f.extractLsb' 16 16 ≠ filter then .error .keyMismatch
  else match channelOf (f.extractLsb' 36 4) (f.extractLsb' 0 4) with
    | none => .error .badChannel
    | some chan =>
      match commandOf (f.extractLsb' 32 4) (f.extractLsb' 4 4) with
      | none => .error .badMode
      | some cmd => .ok ⟨f.extractLsb' 16 16, chan, cmd, f.extractLsb' 8 8⟩

/-- ENCODE (R120): pure, the result on `enc_frame` and `enc_valid`. -/
def execEncode (key : BitVec 16) (chan : BitVec 2) (cmd : BitVec 3) (power : BitVec 8) (s : State) : Answer :=
  .next (s.answer [.encoded (packetEncode key chan cmd power).1 (packetEncode key chan cmd power).2]
    (encodeReasons chan cmd))

/-- DECODE (R130): pure, the tuple or no decode. -/
def execDecode (f : Frame) (filter : BitVec 16) (s : State) : Answer :=
  match packetDecode f filter with
  | .ok d => .next (s.answer [.decoded (some d)] [])
  | .error r => .next (s.answer [.decoded none] [r])

end Sys2Proof.Machine
end

