-- ==== Sys2Proof/Machine/Transmit.lean ====
section
/-!
DEFINITION. PulseTransmitter (41_pulse_transmitter.md): EMIT (R150) as the step machine of R162, each symbol
in two transitions, its rise and its fall (log entry 3). Times are those of R154 where no draws stand, of
R156 with draws.
-/

namespace Sys2Proof.Machine

open Sys2Proof

/-- The value of `tx_sym` after the trailer (R25): START and the `WIRE_BITS` bit symbols are sent. -/
abbrev symbolCount : Nat := Config.wireBits + 1

/-- The symbol in progress or next (R152). -/
def TxGroup.symbol (tx : TxGroup) : Symbol := symbolAt tx.frame tx.sym.toNat

/-- `j_k` and `o_k` of R156 for the next pulse; the nominal instance is `j_k = 0`, `o_k = C`. -/
def nextDraw (draws : List (Time × Time)) : Time × Time := draws.headD (0#32, Config.txOverhead)

/-- `r_k = max(D_k, f_(k-1)) + j_k` (R156); with no draws this is `D_k` (R154). -/
def riseTime (tx : TxGroup) (draws : List (Time × Time)) : Time :=
  later tx.deadline tx.fallAt + (nextDraw draws).1

/-- `f_k = r_k + (on(SYM(k)) - C) + o_k` (R156). -/
def fallTime (tx : TxGroup) (draws : List (Time × Time)) : Time :=
  riseTime tx draws + (tx.symbol.on - Config.txOverhead) + (nextDraw draws).2

/-- The time of the transmitter's next transition, while it is busy. -/
def txMoment (tx : TxGroup) (draws : List (Time × Time)) : Time :=
  if tx.out then tx.fallAt
  else if tx.sym.toNat < symbolCount then riseTime tx draws
  else tx.deadline

/-- EMIT's start (R150, R153, R157, R160), at `t0 = now()`, for the host or for the running session. -/
def startEmission (byHost : Bool) (f : Frame) (s : State) : State :=
  { s with
    tx := { s.tx with
      frame := f, deadline := s.clock, sym := 0#6, out := false, active := true, gap := false,
      fallAt := s.clock, byHost := byHost }
    waves := s.waves ++ [.emitted f s.clock, .edge .txActive true s.clock] }

/-- The rise of symbol `tx_sym` (R150 `drive(tx_out, 1, r_k)`). -/
def txRise (s : State) : State :=
  { s with
    tx := { s.tx with out := true, fallAt := fallTime s.tx s.draws }
    draws := s.draws.tail
    waves := s.waves ++ [.edge .txOut true (riseTime s.tx s.draws)] }

/-- Its fall: `drive(tx_out, 0, f_k)`, the deadline advances by the nominal total (R153), the next symbol. -/
def txFall (s : State) : State :=
  { s with
    tx := { s.tx with
      out := false
      deadline := s.tx.deadline + (s.tx.symbol.on + s.tx.symbol.off)
      sym := s.tx.sym + 1#6 }
    waves := s.waves ++ [.edge .txOut false s.tx.fallAt] }

/-- The end of the trailer symbol: the indicator falls (R157), the silence begins (R155). -/
def txGapStart (s : State) : State :=
  { s with
    tx := { s.tx with active := false, gap := true, deadline := s.tx.deadline + Config.tGap }
    waves := s.waves ++ [.edge .txActive false s.tx.deadline] }

/-- The end of the silence: EMIT returns (R155, R159). -/
def txReturn (s : State) : State :=
  { s with
    tx := { s.tx with sym := Config.txIdle, gap := false }
    waves := s.waves ++ [.returned s.tx.deadline] }

/-- One transition of a busy transmitter (R162). `tx_sym` 43..62 never occur (R25); nothing moves there. -/
def txTurn (s : State) : State :=
  if s.tx.out then (txFall s).answer [] []
  else if s.tx.sym.toNat < symbolCount then (txRise s).answer [] []
  else if s.tx.sym = BitVec.ofNat 6 symbolCount then
    if s.tx.gap then
      (txReturn s).answer (if s.tx.byHost then [.emitReturned] else []) []
    else (txGapStart s).answer [] []
  else s.answer [] []

/-- EMIT where nothing else is in progress: a sentinel returns at once (R151); any other frame starts an emission
(R150), which `agentTurn` carries on. -/
def beginEmit (f : Frame) (s : State) : State :=
  if leadIn f then (startEmission true f s).answer [] []
  else s.answer [.emitReturned] [.sentinelFrame]

end Sys2Proof.Machine
end

