-- ==== Sys2Proof/Machine/Session.lean ====
section
/-!
DEFINITION. TransmissionSession (42_transmission_session.md): the session of SESSION_RUN (R170) and of
KEEPALIVE_TICK (R178).
The loop of R173 is a step machine (log entry 4): a check, then one EMIT after another, then the counter.
-/

namespace Sys2Proof.Machine

open Sys2Proof

/-- R172: one frame per selected channel, or none at all if any cannot be encoded. -/
def encodeChannels (key : BitVec 16) (cmd : BitVec 3) (power : BitVec 8) : List (BitVec 2) → Option (List Frame)
  | [] => some []
  | ch :: chs =>
    match packetEncode key ch cmd power, encodeChannels key cmd power chs with
    | (f, true), some fs => some (f :: fs)
    | _, _ => none

/-- `ses_frame[i]` (R28). -/
def SesGroup.frame (ses : SesGroup) (i : Nat) : Frame := if i = 0 then ses.frame0 else ses.frame1

/-- The start of the loop (R170, R172, R71 (b)), for the frames `f :: fs`. -/
def beginSession (f : Frame) (fs : List Frame) (budget : BitVec 32) (cancelEn keepalive : Bool) (s : State) : State :=
  { s with
    ses := { s.ses with
      frame0 := f, frame1 := fs.headD s.ses.frame1, n := BitVec.ofNat 2 (fs.length + 1),
      tBegin := s.clock, round := 0#32, done := false, phase := .check, budget := budget,
      cancelEn := cancelEn, keepalive := keepalive } }

/-- A session that ends before its loop with ERROR (R172, R175): only the result ports change (R241). -/
def refuseSession (r : Reason) (s : State) : State :=
  { s with
    ses := { s.ses with result := .error, done := true }
    waves := s.waves ++ [.sessionEnded .error s.clock]
    delivered := [.session .error]
    reasons := [r] }

/-- SESSION_RUN as R170 writes it, up to its loop. -/
def startSession (cmd : BitVec 3) (sel : BitVec 2) (power : BitVec 8) (budget : BitVec 32)
    (cancelEn keepalive : Bool) (s : State) : State :=
  match encodeChannels s.tx.key cmd power (selected sel) with
  | none => refuseSession .sessionEncodeFailed s
  | some [] => refuseSession .sessionNoChannel s
  | some (f :: fs) => (beginSession f fs budget cancelEn keepalive s).answer [] []

/-- R171: the budget check, in units of `unit` microseconds. -/
def budgetReached (unit : Nat) (ses : SesGroup) (now : Time) : Bool :=
  if 0 ≤ ses.budget.toInt then decide (ses.budget.toNat * unit ≤ (now - ses.tBegin).toNat)
  else decide (ses.budget.toInt.natAbs ≤ ses.round.toNat)

/-- The session returns `r` (R175); a keep-alive records its time now (R178, log entry 15). -/
def endSession (r : SesResult) (s : State) : State :=
  { s with
    ses := { s.ses with phase := .idle, result := r, done := true }
    ka := if s.ses.keepalive then { s.ka with tLast := s.hostSeconds } else s.ka
    waves := s.waves ++ [.sessionEnded r s.clock]
    delivered := [.session r]
    reasons := if r = .cancelled then [.cancelled] else [] }

/-- Steps (1) and (2) of R173: the cancellation check, then the budget check. -/
def sessionCheck (s : State) : State :=
  let polled := if s.ses.cancelEn then s.show [.polled s.cancel s.clock] else s
  if s.ses.cancelEn && s.cancel then endSession .cancelled polled
  else if budgetReached Config.budgetUnitUs s.ses s.clock then endSession .ok polled
  else ({ polled with ses := { s.ses with phase := .round 0 } }).answer [] []

/-- Step (3) of R173, frame `i` of the round, or step (4) after the last. -/
def sessionRound (i : Nat) (s : State) : State :=
  if i < s.ses.n.toNat then
    (startEmission false (s.ses.frame i) { s with ses := { s.ses with phase := .round (i + 1) } }).answer [] []
  else
    ({ s with ses := { s.ses with phase := .check, round := s.ses.round + 1#32 } }).answer [] []

/-- One transition of the session loop, while no emission is in progress. -/
def sessionTurn (s : State) : State :=
  match s.ses.phase with
  | .idle => s.answer [] []
  | .check => sessionCheck s
  | .round i => sessionRound i s

/-- R178's test: a non-empty mask, and more than 120 s since the last keep-alive. -/
def keepaliveDue (s : State) : Bool :=
  s.ka.mask != 0#2 && decide (Config.keepaliveInterval < (s.hostSeconds - s.ka.tLast).toNat)

/-- KEEPALIVE_TICK where nothing else is in progress (R178): when due, the session LED on the mask's channels,
KEEPALIVE_POWER, three rounds, no predicate; its end records the time. -/
def beginKeepalive (s : State) : State :=
  if keepaliveDue s then
    startSession 1#3 s.ka.mask Config.keepalivePower (BitVec.ofInt 32 (-(Config.keepaliveRepeats : Int))) false true s
  else s.answer [] []

end Sys2Proof.Machine
end

