-- ==== Sys2Proof/Machine/Agent.lean ====
section
/-!
DEFINITION. The transmit agent (R11): it takes its operations one after another in the order they are invoked, each
seeing all effects of those before it (R68 (1), log entry 30); EMIT, SESSION_RUN and KEEPALIVE_TICK as calls of it.
-/

namespace Sys2Proof.Machine

open Sys2Proof

/-- The call takes effect: every operation invoked before it has returned (R68 (1)). A session's predicate answers
from here on (log entry 4). -/
def beginCall (c : TxCall) (s : State) : State :=
  match c with
  | .emit f => beginEmit f s
  | .session cmd sel power budget cancelEn cancel =>
    startSession cmd sel power budget cancelEn false { s with cancel := cancel }
  | .keepalive => beginKeepalive s

/-- A call of the transmit agent. While `tx_busy` is 1 it is ignored (EMIT: R158; the others: log entry 12). At any
other time it is taken (R246): at once, or, where operations invoked before it have not returned, when they have
(R68 (1), log entry 30). -/
def callTransmit (c : TxCall) (s : State) : Answer :=
  if s.tx.busy then .next (s.answer [] [])
  else if s.callsUnfinished then .next (({ s with txCalls := s.txCalls ++ [c] }).answer [] [])
  else .next (beginCall c s)

/-- EMIT (R150). -/
def execEmit (f : Frame) (s : State) : Answer := callTransmit (.emit f) s

/-- SESSION_RUN (R170). -/
def execSessionRun (cmd : BitVec 3) (sel : BitVec 2) (power : BitVec 8) (budget : BitVec 32)
    (cancelEn cancel : Bool) (s : State) : Answer :=
  callTransmit (.session cmd sel power budget cancelEn cancel) s

/-- KEEPALIVE_TICK (R178). -/
def execKeepaliveTick (s : State) : Answer := callTransmit .keepalive s

/-- The call that has waited longest takes effect, if one waits. -/
def nextCall (s : State) : State :=
  match s.txCalls with
  | [] => s.answer [] []
  | c :: cs => beginCall c { s with txCalls := cs }

/-- The time of the transmit agent's next transition, if it has one: the session's checks and the beginning of a call
that has waited take no time. -/
def agentMoment (s : State) : Option Time :=
  if s.tx.busy then some (txMoment s.tx s.draws)
  else if s.callsUnfinished then some s.clock
  else none

/-- One transition of the transmit agent, at its time `m`: the emission's, else the session's, else the next call. -/
def agentTurn (m : Time) (s : State) : State :=
  if s.tx.busy then txTurn (s.clockTo m)
  else if s.ses.running then sessionTurn s
  else nextCall s

end Sys2Proof.Machine
end

