-- ==== Sys2Proof/Machine/Environment.lean ====
section
/-!
DEFINITION. The environment's turns other than calls, and what happens when it has none left (log entries 1, 2, 17).
-/

namespace Sys2Proof.Machine

open Sys2Proof

/-- Nothing stands in the script: time passes until the transmit agent's next transition, which happens;
an idle block stays as it is. -/
def passFreely (s : State) : State :=
  match agentMoment s with
  | some m => agentTurn m s
  | none => s.answer [] []

/-- The clock runs on to `t`: the transmit agent's transition that is due by `t` comes first and the turn
stays; when none is due the clock shows `t` and the turn is over. -/
def passUntil (t : Time) (rest : List Turn) (s : State) : State :=
  match agentMoment s with
  | some m =>
    if reached t m then agentTurn m s else ({ s with clock := t, script := rest }).answer [] []
  | none => ({ s with clock := t, script := rest }).answer [] []

/-- A new receive instance, in its reset state, comes under the ports (R252). -/
def newInstance (s : State) : State :=
  ({ s with rx := RxGroup.reset, rxOthers := s.rxOthers ++ [s.rx] }).answer [] []

/-- The next receive instance comes under the ports, in turn (R252). -/
def nextInstance (s : State) : State :=
  match s.rxOthers with
  | [] => s.answer [] []
  | r :: rs => ({ s with rx := r, rxOthers := rs ++ [s.rx] }).answer [] []

end Sys2Proof.Machine
end

