-- ==== Sys2Proof/Machine/Receive.lean ====
section
/-!
DEFINITION. ReceiverDecoder (43_receiver_decoder.md): RX_SAMPLE (R190) and its sub-steps (R191 to R199), each a
function of one receive group, then the meanings over State.
-/

namespace Sys2Proof.Machine

open Sys2Proof

/-- CLASSIFY (R193), for a value of `w_start_hi`; all bounds exclusive. -/
def classifyWidth (wStartHi : BitVec 12) (w : Time) : PulseClass :=
  if Config.wZeroLo < w.toNat ∧ w.toNat < Config.wZeroHi then .bit false
  else if Config.wOneLo < w.toNat ∧ w.toNat < Config.wOneHi then .bit true
  else if Config.wStartLo < w.toNat ∧ w.toNat < wStartHi.toNat then .start
  else .noise

/-- RX_REPORT (R199): the repeat test on the inter-frame gap and the stored tuple. -/
def rxReport (d : Tuple) (t : Time) (rx : RxGroup) : RxOut :=
  if rx.lastValid = true ∧ (rx.tStart - rx.tEnd).toNat < Config.repeatWindow ∧ d = rx.last then
    { rx := { rx with tEnd := t }, result := .repeated, reason := none }
  else
    { rx := { rx with last := d, lastValid := true, tEnd := t }, result := .new, reason := none }

/-- RX_COMPLETE (R196): duration gate (R197), DECODE (R198), report. -/
def rxComplete (t : Time) (rx : RxGroup) : RxOut :=
  if (t - rx.tStart).toNat < Config.durMin ∨ Config.durMax < (t - rx.tStart).toNat then discard .badDuration rx
  else match packetDecode rx.buf rx.keyFilter with
    | .error r => discard r rx
    | .ok d => rxReport d t rx

/-- The buffer and the counter after a data bit (R195). -/
def appendBit (b : Bool) (rx : RxGroup) : RxGroup :=
  { rx with buf := setBit rx.buf (Config.frameBits - 1 - rx.count.toNat) b, count := rx.count + 1#6 }

/-- RX_BIT (R195). -/
def rxBit (b : Bool) (t : Time) (rx : RxGroup) : RxOut :=
  if Config.frameBits ≤ rx.count.toNat then discard .strayBit rx
  else if (appendBit b rx).count = BitVec.ofNat 6 Config.frameBits then rxComplete t (appendBit b rx)
  else quietly (appendBit b rx)

/-- RX_START (R194), in every state; a partial frame is lost (TRUNCATED_FRAME of R231). -/
def rxStart (t : Time) (rx : RxGroup) : RxOut :=
  let rx' := { rx with buf := 0#40, count := 0#6, tStart := t }
  if 1 ≤ rx.count.toNat ∧ rx.count.toNat < Config.frameBits then discard .truncatedFrame rx' else quietly rx'

/-- RX_FALL (R192), by the instance's own `w_start_hi` (R68 (4)). -/
def rxFall (t : Time) (rx : RxGroup) : RxOut :=
  match classifyWidth rx.wStartHi (t - rx.tRise) with
  | .noise => discard .noiseWidth rx
  | .start => rxStart t rx
  | .bit b => rxBit b t rx

/-- RX_RISE (R191). -/
def rxRise (t : Time) (rx : RxGroup) : RxOut := quietly { rx with tRise := t }

/-- RX_SAMPLE (R190). -/
def rxSample (level : Bool) (t : Time) (rx : RxGroup) : RxOut :=
  if level = rx.lastLevel then quietly rx
  else if level then rxRise t { rx with lastLevel := level }
  else rxFall t { rx with lastLevel := level }

/-- RX_SAMPLE calls one after another (R68). -/
def rxFeed : List (Bool × Time) → RxGroup → RxRun
  | [], rx => { rx, results := [], reasons := [] }
  | e :: es, rx =>
    let o := rxSample e.1 e.2 rx
    let r := rxFeed es o.rx
    { rx := r.rx, results := o.result :: r.results, reasons := o.reason.toList ++ r.reasons }

/-- RX_SAMPLE (R190). -/
def execRxSample (level : Bool) (t : Time) (s : State) : Answer :=
  .next (s.takeRx (rxSample level t s.rx))

/-- RX_RISE (R191). -/
def execRxRise (t : Time) (s : State) : Answer := .next (s.takeRx (rxRise t s.rx))

/-- RX_FALL (R192). -/
def execRxFall (t : Time) (s : State) : Answer := .next (s.takeRx (rxFall t s.rx))

/-- CLASSIFY (R193): pure, by the present `w_start_hi` of the instance under the ports (log entry 18). -/
def execClassify (w : Time) (s : State) : Answer :=
  .next (s.answer [.classified (classifyWidth s.rx.wStartHi w)] [])

/-- RX_START (R194). -/
def execRxStart (t : Time) (s : State) : Answer := .next (s.takeRx (rxStart t s.rx))

/-- RX_BIT (R195). -/
def execRxBit (b : Bool) (t : Time) (s : State) : Answer := .next (s.takeRx (rxBit b t s.rx))

/-- RX_COMPLETE (R196). -/
def execRxComplete (t : Time) (s : State) : Answer := .next (s.takeRx (rxComplete t s.rx))

/-- RX_REPORT (R199). -/
def execRxReport (d : Tuple) (t : Time) (s : State) : Answer := .next (s.takeRx (rxReport d t s.rx))

end Sys2Proof.Machine
end

