-- ==== Sys2Proof/Machine/Wire.lean ====
section
/-!
DEFINITION. What arrives on the input line: the three symbols (R90, R91) and the eight frames (R121 to R128).
A symbol is `SYMBOLS` of R104 and a frame is `FRAMEWAVE` of R104, at the present time, taken by the receive
instance under the ports (log entries 5 and 6). The line is then occupied until the symbol's or the
transmission's end (R89): the clock runs on to that time as the next turn, so that whatever the transmit agent
has to do meanwhile is done.
-/

namespace Sys2Proof.Machine

open Sys2Proof

/-- The samples `es` arrive and the line is occupied for `dur`. -/
def receiveWave (es : List (Bool × Time)) (dur : Time) (s : State) : State :=
  let r := rxFeed es s.rx
  { s with
    rx := r.rx
    delivered := r.results.map .rx
    reasons := r.reasons
    script := .clock (s.clock + dur) :: s.script }

/-- One symbol on the input line. -/
def receiveSymbol (y : Symbol) (s : State) : State :=
  receiveWave (symbolSamples [y] s.clock) (y.on + y.off) s

/-- One transmission of `f` on the input line: `FRAMEWAVE` of R104, then the silence of R89. -/
def receiveFrame (f : Frame) (s : State) : State :=
  receiveWave (symbolSamples (frameSymbols f) s.clock) (43250#32 + Config.tGap) s

/-- A request that is no row of the table is a waveform all the same: an illegal frame is received and
rejected (R99), other slots are pulses that classify as they do (R100); log entry 7. -/
def receiveUnlisted (r : Request) (s : State) : State :=
  match r with
  | .frame f => receiveFrame f s
  | .slots bs => receiveWave (slotSamples bs s.clock) (BitVec.ofNat 32 bs.length * Config.slot) s
  | .op _ _ => s.answer [] []

/-- START (R90, R91, R194). -/
def execStart (s : State) : Answer := .next (receiveSymbol .start s)

/-- ONE (R90, R91, R195). -/
def execOne (s : State) : Answer := .next (receiveSymbol .one s)

/-- ZERO (R90, R91, R195). -/
def execZero (s : State) : Answer := .next (receiveSymbol .zero s)

/-- LED.1 (R121): the frame ENCODE produces for channel 1, LED. -/
def execLed1 (key : BitVec 16) (power : BitVec 8) (s : State) : Answer :=
  .next (receiveFrame (packetEncode key 1#2 1#3 power).1 s)

/-- BEEP.1 (R122). -/
def execBeep1 (key : BitVec 16) (power : BitVec 8) (s : State) : Answer :=
  .next (receiveFrame (packetEncode key 1#2 2#3 power).1 s)

/-- VIBRATE.1 (R123). -/
def execVibrate1 (key : BitVec 16) (power : BitVec 8) (s : State) : Answer :=
  .next (receiveFrame (packetEncode key 1#2 3#3 power).1 s)

/-- ZAP.1 (R124). -/
def execZap1 (key : BitVec 16) (power : BitVec 8) (s : State) : Answer :=
  .next (receiveFrame (packetEncode key 1#2 4#3 power).1 s)

/-- LED.2 (R125). -/
def execLed2 (key : BitVec 16) (power : BitVec 8) (s : State) : Answer :=
  .next (receiveFrame (packetEncode key 2#2 1#3 power).1 s)

/-- BEEP.2 (R126). -/
def execBeep2 (key : BitVec 16) (power : BitVec 8) (s : State) : Answer :=
  .next (receiveFrame (packetEncode key 2#2 2#3 power).1 s)

/-- VIBRATE.2 (R127). -/
def execVibrate2 (key : BitVec 16) (power : BitVec 8) (s : State) : Answer :=
  .next (receiveFrame (packetEncode key 2#2 3#3 power).1 s)

/-- ZAP.2 (R128). -/
def execZap2 (key : BitVec 16) (power : BitVec 8) (s : State) : Answer :=
  .next (receiveFrame (packetEncode key 2#2 4#3 power).1 s)

end Sys2Proof.Machine
end

