-- ==== Sys2Proof/Machine/Dispatch.lean ====
section
/-!
DEFINITION. One arm per constructor of Instr, in the table's order.
-/

namespace Sys2Proof.Machine

open Sys2Proof

-- the meaning of an instruction
def exec (i : Instr) (s : State) : Host.Outcome State Fault Refusal :=
  match i with
  -- FRAME40
  | .led1 key power => Sys2Proof.Machine.execLed1 key power s
  | .beep1 key power => Sys2Proof.Machine.execBeep1 key power s
  | .vibrate1 key power => Sys2Proof.Machine.execVibrate1 key power s
  | .zap1 key power => Sys2Proof.Machine.execZap1 key power s
  | .led2 key power => Sys2Proof.Machine.execLed2 key power s
  | .beep2 key power => Sys2Proof.Machine.execBeep2 key power s
  | .vibrate2 key power => Sys2Proof.Machine.execVibrate2 key power s
  | .zap2 key power => Sys2Proof.Machine.execZap2 key power s
  -- SYMBOL
  | .start => Sys2Proof.Machine.execStart s
  | .one => Sys2Proof.Machine.execOne s
  | .zero => Sys2Proof.Machine.execZero s
  -- OP
  | .encode key chan cmd power => Sys2Proof.Machine.execEncode key chan cmd power s
  | .decode frame filter => Sys2Proof.Machine.execDecode frame filter s
  | .emit frame => Sys2Proof.Machine.execEmit frame s
  | .sessionRun cmd sel power budget cancelEn cancel => Sys2Proof.Machine.execSessionRun cmd sel power budget cancelEn cancel s
  | .keepaliveTick => Sys2Proof.Machine.execKeepaliveTick s
  | .rxSample level t => Sys2Proof.Machine.execRxSample level t s
  | .rxRise t => Sys2Proof.Machine.execRxRise t s
  | .rxFall t => Sys2Proof.Machine.execRxFall t s
  | .classify w => Sys2Proof.Machine.execClassify w s
  | .rxStart t => Sys2Proof.Machine.execRxStart t s
  | .rxBit b t => Sys2Proof.Machine.execRxBit b t s
  | .rxComplete t => Sys2Proof.Machine.execRxComplete t s
  | .rxReport d t => Sys2Proof.Machine.execRxReport d t s
  | .reset => Sys2Proof.Machine.execReset s
  | .cfgWrite no value => Sys2Proof.Machine.execCfgWrite no value s

end Sys2Proof.Machine
end

