-- ==== Sys2Proof/Machine/Step.lean ====
section
/-!
DEFINITION. One step: the next turn of the environment, or, where its script is empty, the transmit agent's own
next transition (log entries 1 and 2). A call is decoded and executed at once.
-/

namespace Sys2Proof.Machine

open Sys2Proof

/-- One step of the whole machine. -/
def step (s : State) : Host.Outcome State Fault Refusal :=
  match s.script with
  | [] => .next (passFreely s)
  | .call r :: rest =>
    match decode r with
    | .ok i => exec i { s with script := rest }
    | .error _ => .next (receiveUnlisted r { s with script := rest })
  | .clock t :: rest => .next (passUntil t rest s)
  | .seconds t :: rest => .next (({ s with hostSeconds := t, script := rest }).answer [] [])
  | .cancel b :: rest => .next (({ s with cancel := b, script := rest }).answer [] [])
  | .newInstance :: rest => .next (newInstance { s with script := rest })
  | .nextInstance :: rest => .next (nextInstance { s with script := rest })

/-- The request of a table row's bits is the environment's next turn (log entry 1). -/
def State.withFetchWord (s : State) (nbits w : Nat) : State :=
  { s with script := .call (tableRequest nbits w) :: s.script }

end Sys2Proof.Machine
end

