-- ==== Sys2Proof/Safety.lean ====
section
/-!
DEFINITION. What counts as a good state and a safe run: the terms the claims use.
-/

namespace Sys2Proof.Machine

open Sys2Proof

/-- The receive invariant of R203: legal counter values, a zero tail of the buffer, and the stored tuple. -/
def RxGroup.Ok (rx : RxGroup) : Prop :=
  (rx.count.toNat ≤ 40 ∨ rx.count = 63#6) ∧
  (rx.count.toNat < 40 → ∀ i, i ≤ 39 - rx.count.toNat → rx.buf.getLsbD i = false) ∧
  (rx.lastValid = true → rx.last.decodable = true) ∧
  (rx.lastValid = false → rx.last = ⟨0#16, 0#2, 0#3, 0#8⟩)

/-- The transmit invariant: values of `tx_sym` (R25), `tx_out` 0 outside a symbol (R23), the span of
`tx_active` (R157), the silence only at 42, and no emission of a sentinel (R151). -/
def TxGroup.Ok (tx : TxGroup) : Prop :=
  (tx.sym.toNat ≤ 42 ∨ tx.sym = 63#6) ∧
  (tx.out = true → tx.sym.toNat ≤ 41) ∧
  (tx.active = true ↔ (tx.sym.toNat ≤ 41 ∨ (tx.sym = 42#6 ∧ tx.gap = false))) ∧
  (tx.gap = true → tx.sym = 42#6) ∧
  (tx.sym ≠ 63#6 → tx.frame.getLsbD 39 = true)

/-- One session: while its loop runs, one or two frames, each fit to be sent, and the loop's place in the round. -/
def SesGroup.Ok (ses : SesGroup) : Prop :=
  ses.phase ≠ .idle →
    (ses.n = 1#2 ∨ ses.n = 2#2) ∧
    ses.frame0.getLsbD 39 = true ∧
    (ses.n = 2#2 → ses.frame1.getLsbD 39 = true) ∧
    (∀ i, ses.phase = .round i → i ≤ ses.n.toNat)

/-- The session invariant: a session in progress is as it should be, and an emission is the running session's, within
its round, or the host's, and then no session runs (R68 (1)). -/
def State.SesOk (s : State) : Prop :=
  s.ses.Ok ∧
  (s.tx.sym ≠ 63#6 → s.tx.byHost = false → ∃ i, s.ses.phase = .round (i + 1)) ∧
  (s.tx.sym ≠ 63#6 → s.tx.byHost = true → s.ses.phase = .idle)

/-- The requests still to come are ones a caller can make. -/
def State.ScriptOk (s : State) : Prop :=
  ∀ r, Turn.call r ∈ s.script → ∀ i, decode r = .ok i → WellFormed i = true

/-- A good state. -/
def State.Inv (s : State) : Prop :=
  s.rx.Ok ∧ (∀ rx ∈ s.rxOthers, RxGroup.Ok rx) ∧ s.tx.Ok ∧ s.SesOk ∧ s.ScriptOk

/-- A run of `n` steps that meets no fault and no refusal. -/
def SafeRun (n : Nat) (s : State) : Prop := ∃ t, Sys2Proof.core.run n s = .next t

end Sys2Proof.Machine
end

