-- ==== Sys2Proof/Certificates/Slice0/Obligations.lean ====
section
/-!
DEFINITION. The statements for the provers, and the words they are said in (namespace Sys2Proof.Claims).
-/

namespace Sys2Proof.Claims

open Sys2Proof Sys2Proof.Machine

/-- `t0 +t us`. -/
def after (t0 : Time) (us : Nat) : Time := t0 + BitVec.ofNat 32 us

/-- A frame by its bytes: byte 0, key, power, byte 4 (R80). -/
def frameOf (b0 : BitVec 8) (key : BitVec 16) (power : BitVec 8) (b4 : BitVec 8) : Frame :=
  b0 ++ key ++ power ++ b4

/-- One row of R93: the constructor, channel and command codes, byte 0, byte 4. -/
structure FrameRow where
  instr : BitVec 16 → BitVec 8 → Instr
  chan  : BitVec 2
  cmd   : BitVec 3
  b0    : BitVec 8
  b4    : BitVec 8

/-- The table of R93. -/
def frameTable : List FrameRow :=
  [ ⟨.led1, 1#2, 1#3, 0x88#8, 0xEE#8⟩, ⟨.beep1, 1#2, 2#3, 0x84#8, 0xDE#8⟩,
    ⟨.vibrate1, 1#2, 3#3, 0x82#8, 0xBE#8⟩, ⟨.zap1, 1#2, 4#3, 0x81#8, 0x7E#8⟩,
    ⟨.led2, 2#2, 1#3, 0xF8#8, 0xE0#8⟩, ⟨.beep2, 2#2, 2#3, 0xF4#8, 0xD0#8⟩,
    ⟨.vibrate2, 2#2, 3#3, 0xF2#8, 0xB0#8⟩, ⟨.zap2, 2#2, 4#3, 0xF1#8, 0x70#8⟩ ]

/-- A channel of a frame (R94) and a command (R95). -/
def isChannel (chan : BitVec 2) : Prop := chan = 1#2 ∨ chan = 2#2
def isCommand (cmd : BitVec 3) : Prop := cmd = 1#3 ∨ cmd = 2#3 ∨ cmd = 3#3 ∨ cmd = 4#3

/-- How many of the 40 bits are 1. -/
def ones (f : Frame) : Nat := ((List.range 40).filter fun i => f.getLsbD i).length

/-- R154: pulse `k` of an emission rises this long after `t0`. -/
def pulseStart (k : Nat) : Nat := if k = 0 then 0 else 2250 + 1000 * (k - 1)

/-- R90, R152: and is on this long. -/
def pulseWidth (f : Frame) (k : Nat) : Nat :=
  if k = 0 then 1500 else if k ≤ 40 ∧ f.getLsbD (40 - k) = true then 750 else 250

/-- The 42 pulses of a nominal emission at `t0`: rise and fall of pulse `k` (R154). -/
def nominalPulse (f : Frame) (t0 : Time) (k : Nat) : Time × Time :=
  (after t0 (pulseStart k), after t0 (pulseStart k + pulseWidth f k))

/-- The transitions of `tx_out` for 42 pulses. -/
def lineWaves (p : Nat → Time × Time) : List Wave :=
  (List.range 42).flatMap fun k => [.edge .txOut true (p k).1, .edge .txOut false (p k).2]

/-- The same as samples of the input line. -/
def samplesOf (p : Nat → Time × Time) : List (Bool × Time) :=
  (List.range 42).flatMap fun k => [(true, (p k).1), (false, (p k).2)]

/-- RX_SAMPLE calls one after another: the last state, and all results in order. -/
def sampled : List (Bool × Time) → State → Option (State × List Delivery)
  | [], s => some (s, [])
  | e :: es, s =>
    match exec (.rxSample e.1 e.2) s with
    | .next t => (sampled es t).map fun r => (r.1, t.delivered ++ r.2)
    | .fault _ => none
    | .refused _ => none

/-- R199: what an accepted frame that started at `tStart` is reported as. -/
def reportOf (rx : RxGroup) (d : Tuple) (tStart : Time) : RxResult :=
  if rx.lastValid = true ∧ (tStart - rx.tEnd).toNat < 120000 ∧ d = rx.last then .repeated else .new

/-- 81 calls without a result, the report, two more calls without (R202). -/
def oneReport (r : RxResult) : List Delivery :=
  List.replicate 81 (.rx .none) ++ [.rx r] ++ List.replicate 2 (.rx .none)

/-- TRUNCATED_FRAME is met when a start marker comes while 1 to 39 bits are in (R231). -/
def truncation (rx : RxGroup) : List Reason :=
  if 1 ≤ rx.count.toNat ∧ rx.count.toNat ≤ 39 then [.truncatedFrame] else []

/-- The frames emitted so far, and the number of polls of cancelPoll so far. -/
def emittedFrames (ws : List Wave) : List Frame :=
  ws.filterMap fun w => match w with | .emitted f _ => some f | _ => none
def pollCount (ws : List Wave) : Nat :=
  (ws.filter fun w => match w with | .polled _ _ => true | _ => false).length

/-- The frames of one round, channel 1 before channel 2 (R172, R176). -/
def roundFrames (key : BitVec 16) (cmd : BitVec 3) (sel : BitVec 2) (power : BitVec 8) : List Frame :=
  (if sel.getLsbD 0 then [(packetEncode key 1#2 cmd power).1] else []) ++
  (if sel.getLsbD 1 then [(packetEncode key 2#2 cmd power).1] else [])

/-- The operations of the receive side (R12), the pure functions among them, and what arrives on the input line. -/
def receiveSide : Instr → Bool
  | .led1 _ _ => true | .beep1 _ _ => true | .vibrate1 _ _ => true | .zap1 _ _ => true
  | .led2 _ _ => true | .beep2 _ _ => true | .vibrate2 _ _ => true | .zap2 _ _ => true
  | .start => true | .one => true | .zero => true
  | .encode _ _ _ _ => true | .decode _ _ => true | .emit _ => false | .sessionRun _ _ _ _ _ _ => false
  | .keepaliveTick => false | .rxSample _ _ => true | .rxRise _ => true | .rxFall _ => true
  | .classify _ => true | .rxStart _ => true | .rxBit _ _ => true | .rxComplete _ => true
  | .rxReport _ _ => true | .reset => false | .cfgWrite _ _ => false

/-- The operations of the transmit side (R12). -/
def transmitSide : Instr → Bool
  | .led1 _ _ => false | .beep1 _ _ => false | .vibrate1 _ _ => false | .zap1 _ _ => false
  | .led2 _ _ => false | .beep2 _ _ => false | .vibrate2 _ _ => false | .zap2 _ _ => false
  | .start => false | .one => false | .zero => false
  | .encode _ _ _ _ => true | .decode _ _ => false | .emit _ => true | .sessionRun _ _ _ _ _ _ => true
  | .keepaliveTick => true | .rxSample _ _ => false | .rxRise _ => false | .rxFall _ => false
  | .classify _ => false | .rxStart _ => false | .rxBit _ _ => false | .rxComplete _ => false
  | .rxReport _ _ => false | .reset => false | .cfgWrite _ _ => false

/-- A single receive call: RX_SAMPLE and the sub-steps that give an `rx_result`. -/
def singleCall : Instr → Bool
  | .led1 _ _ => false | .beep1 _ _ => false | .vibrate1 _ _ => false | .zap1 _ _ => false
  | .led2 _ _ => false | .beep2 _ _ => false | .vibrate2 _ _ => false | .zap2 _ _ => false
  | .start => false | .one => false | .zero => false
  | .encode _ _ _ _ => false | .decode _ _ => false | .emit _ => false | .sessionRun _ _ _ _ _ _ => false
  | .keepaliveTick => false | .rxSample _ _ => true | .rxRise _ => true | .rxFall _ => true
  | .classify _ => false | .rxStart _ => true | .rxBit _ _ => true | .rxComplete _ => true
  | .rxReport _ _ => true | .reset => false | .cfgWrite _ _ => false

/-- Every operation of the transmit agent has returned: no emission and no session is in progress, no call waits. -/
def agentIdle (s : State) : Prop := s.tx.sym = 63#6 ∧ s.ses.phase = .idle ∧ s.txCalls = []

/-- The instruction that a call of the transmit agent is. -/
def callInstr : TxCall → Instr
  | .emit f => .emit f
  | .session cmd sel power budget cancelEn cancel => .sessionRun cmd sel power budget cancelEn cancel
  | .keepalive => .keepaliveTick

/-- `wait_until(m)` of R10 is over at `t`: the clock has reached `m`. -/
def isDue (t m : Time) : Prop := (t - m).toNat < 2 ^ 31

/-- The time of the transmit agent's next transition: the fall in progress, the next rise (the later of deadline and
last fall, and the draw `j`), the end of the trailer or of the silence; a session's step between two emissions and
the beginning of a call that has waited are at the present time (log entries 2 to 4 and 30). -/
def nextTransitionAt (s : State) : Option Time :=
  if s.tx.sym ≠ 63#6 then
    some (if s.tx.out = true then s.tx.fallAt
      else if s.tx.sym.toNat ≤ 41 then
        (if (s.tx.deadline - s.tx.fallAt).toNat < 2 ^ 31 then s.tx.deadline else s.tx.fallAt) +
          (match s.draws with | [] => 0#32 | d :: _ => d.1)
      else s.tx.deadline)
  else if s.ses.phase = .idle ∧ s.txCalls = [] then none
  else some s.clock

/-- Time may pass to `m`: no turn stands in the script, or the clock is to run on to a time that has reached `m`
(log entry 2). -/
def mayPass (s : State) (m : Time) : Prop :=
  s.script = [] ∨ ∃ T rest, s.script = .clock T :: rest ∧ isDue T m

/-- The reasons met by RX_SAMPLE calls one after another, in order. -/
def reasonsMet : List (Bool × Time) → State → List Reason
  | [], _ => []
  | e :: es, s =>
    match exec (.rxSample e.1 e.2) s with
    | .next t => t.reasons ++ reasonsMet es t
    | .fault _ => []
    | .refused _ => []

/-- The samples `es` arrive and the line is occupied until `upTo`: the state after all the calls, with their
results and reasons handed back together, and the clock's run as the next turn (log entries 5 to 7). -/
def Arrives (es : List (Bool × Time)) (upTo : Time) (s t : State) : Prop :=
  ∃ u ds, sampled es s = some (u, ds) ∧
    t = { u with delivered := ds, reasons := reasonsMet es s, script := .clock upTo :: s.script }

/-- A string of slots as samples, one every 250 us from `t0` on (log entry 7). -/
def slotsAsSamples (bs : List Bool) (t0 : Time) : List (Bool × Time) :=
  bs.zipIdx.map fun p => (p.1, after t0 (250 * p.2))

/-- The width the receiver measures when the line, going or staying on at `rise`, falls at `fall`: from the last rise
it recorded, which is `rise` unless it saw the line on before (R190 to R192). -/
def measuredWidth (rx : RxGroup) (rise fall : Time) : Nat :=
  (fall - (if rx.lastLevel = true then rx.tRise else rise)).toNat

end Sys2Proof.Claims

open Sys2Proof Sys2Proof.Machine Sys2Proof.Claims

/-! ## Encoding and the step -/

/-- Words written out from R92, R93 and R70 decode to what they stand for; three words are rejected by name
(R133, R134). -/
def Obligations.WrittenOutWordsDecode : Prop :=
  decode (.frame 0b1000000110101011110011010110010001111110#40) = .ok (.zap1 0xABCD#16 0x64#8) ∧
  decode (.frame 0b1111100000010010001101000000101011100000#40) = .ok (.led2 0x1234#16 0x0A#8) ∧
  decode (.slots [true, true, true, true, true, true, false, false, false]) = .ok .start ∧
  decode (.slots [true, true, true, false]) = .ok .one ∧
  decode (.slots [true, false, false, false]) = .ok .zero ∧
  decode (.op .rxSample { level := true, t := 1000#32 }) = .ok (.rxSample true 1000#32) ∧
  decode (.op .cfgWrite { no := 3#2, value := 1700#16 }) = .ok (.cfgWrite 3 1700#16) ∧
  decode (.frame 0x81ABCD6470#40) = .error .badChannel ∧
  decode (.frame 0x83ABCD647E#40) = .error .badMode ∧
  decode (.slots [true, true, false, false]) = .error .notASymbol

/-- Decoding what the encoder writes gives the instruction back, with every operand; and a frame word or a slot
string that decodes is the one the encoder writes. -/
def Obligations.DecodeOfEncodeIsTheInstruction : Prop :=
  (∀ i, WellFormed i = true → decode (encode i) = .ok i) ∧
  (∀ f i, decode (.frame f) = .ok i → encode i = .frame f) ∧
  (∀ b i, decode (.slots b) = .ok i → encode i = .slots b)

/-- A step whose next turn is a request that decodes to `i` is `exec i`, with the turn taken off the script
(the model's fetch: log entry 1). -/
def Obligations.StepRunsTheDecodedInstruction : Prop :=
  ∀ (s : State) (r : Request) (rest : List Turn) (i : Instr), decode r = .ok i →
    step { s with script := .call r :: rest } = exec i { s with script := rest }

/-- The other turns (the model's choice, log entries 1, 2 and 17): the clock runs on when nothing of the transmit
agent is due by its new time, ports and the seconds clock take their values, a new receive instance comes under the
ports, or the next one, in turn, and an idle block with nothing to do stands. -/
def Obligations.EnvironmentTurnsMoveOnlyTheirInput : Prop :=
  ∀ (s : State) (rest : List Turn),
    (∀ t, (∀ m, nextTransitionAt s = some m → ¬ isDue t m) → step { s with script := .clock t :: rest } =
      .next { s with clock := t, script := rest, delivered := [], reasons := [] }) ∧
    (∀ t, step { s with script := .seconds t :: rest } =
      .next { s with hostSeconds := t, script := rest, delivered := [], reasons := [] }) ∧
    (∀ b, step { s with script := .cancel b :: rest } =
      .next { s with cancel := b, script := rest, delivered := [], reasons := [] }) ∧
    step { s with script := .newInstance :: rest } =
      .next { s with rx := RxGroup.reset, rxOthers := s.rxOthers ++ [s.rx], script := rest,
                     delivered := [], reasons := [] } ∧
    (s.rxOthers = [] → step { s with script := .nextInstance :: rest } =
      .next { s with script := rest, delivered := [], reasons := [] }) ∧
    (∀ r rs, s.rxOthers = r :: rs → step { s with script := .nextInstance :: rest } =
      .next { s with rx := r, rxOthers := rs ++ [s.rx], script := rest, delivered := [], reasons := [] }) ∧
    (agentIdle s → step { s with script := [] } = .next { s with script := [], delivered := [], reasons := [] })

/-- R13: every operation is total, and so is every step. -/
def Obligations.EveryOperationIsTotal : Prop :=
  (∀ (i : Instr) (s : State), ∃ t, exec i s = .next t) ∧ (∀ s : State, ∃ t, step s = .next t)

/-- The invariant holds at reset. -/
def Obligations.InvariantHoldsAtReset : Prop := State.reset.Inv

/-- R203 and the transmit side's counterpart: every step keeps the invariant, and only RESET brings `rx_count`
back to 63. -/
def Obligations.EveryStepKeepsTheInvariant : Prop :=
  (∀ s t : State, s.Inv → step s = .next t → t.Inv) ∧
  (∀ (i : Instr) (s t : State), i ≠ .reset → exec i s = .next t → s.rx.count ≠ 63#6 → t.rx.count ≠ 63#6)

/-! ## PacketCodec -/

/-- R120: ENCODE assembles the frame for channel 1 or 2 and commands 1 to 4 and gives the all-zero sentinel
with `valid` = 0 for any other; no state changes. -/
def Obligations.EncodeAssemblesTheFrame : Prop :=
  ∀ (key : BitVec 16) (chan : BitVec 2) (cmd : BitVec 3) (power : BitVec 8) (s : State),
    (isChannel chan → isCommand cmd →
      ∃ (mode modec : BitVec 4),
        ((cmd = 1#3 ∧ mode = 0b1000#4 ∧ modec = 0b1110#4) ∨ (cmd = 2#3 ∧ mode = 0b0100#4 ∧ modec = 0b1101#4) ∨
         (cmd = 3#3 ∧ mode = 0b0010#4 ∧ modec = 0b1011#4) ∨ (cmd = 4#3 ∧ mode = 0b0001#4 ∧ modec = 0b0111#4)) ∧
        exec (.encode key chan cmd power) s = .next { s with
          delivered := [.encoded (1#1 ++ (if chan = 1#2 then 0b000#3 else 0b111#3) ++ mode ++ key ++ power ++
            modec ++ (if chan = 1#2 then 0b111#3 else 0b000#3) ++ 0#1) true]
          reasons := [] }) ∧
    (¬ (isChannel chan ∧ isCommand cmd) → exec (.encode key chan cmd power) s = .next { s with
      delivered := [.encoded 0#40 false]
      reasons := (if chan = 0#2 ∨ chan = 3#2 then [.invalidChannel] else []) ++
        (if cmd = 0#3 ∨ cmd = 5#3 ∨ cmd = 6#3 ∨ cmd = 7#3 then [.invalidCommand] else []) })

/-- R129: `valid` exactly for channels and commands; the fixed bits, key and power where they belong and one of the
eight byte pairs; injective on valid operands. -/
def Obligations.EncodeProperties : Prop :=
  (∀ (key : BitVec 16) (chan : BitVec 2) (cmd : BitVec 3) (power : BitVec 8),
    ((packetEncode key chan cmd power).2 = true ↔ isChannel chan ∧ isCommand cmd) ∧
    ((packetEncode key chan cmd power).2 = true →
      (packetEncode key chan cmd power).1.getLsbD 39 = true ∧
      (packetEncode key chan cmd power).1.getLsbD 0 = false ∧
      (packetEncode key chan cmd power).1.extractLsb' 16 16 = key ∧
      (packetEncode key chan cmd power).1.extractLsb' 8 8 = power ∧
      ∃ r ∈ frameTable, byteAt (packetEncode key chan cmd power).1 0 = r.b0 ∧
        byteAt (packetEncode key chan cmd power).1 4 = r.b4)) ∧
  (∀ (key key' : BitVec 16) (chan chan' : BitVec 2) (cmd cmd' : BitVec 3) (power power' : BitVec 8),
    (packetEncode key chan cmd power).2 = true → (packetEncode key' chan' cmd' power').2 = true →
    (packetEncode key chan cmd power).1 = (packetEncode key' chan' cmd' power').1 →
    key = key' ∧ chan = chan' ∧ cmd = cmd' ∧ power = power')

/-- R121 to R128: each of the eight frame types is produced by ENCODE and recognised by DECODE. -/
def Obligations.EightFrameTypes : Prop :=
  ∀ r ∈ frameTable, ∀ (key : BitVec 16) (power : BitVec 8) (s : State),
    exec (.encode key r.chan r.cmd power) s =
      .next { s with delivered := [.encoded (frameOf r.b0 key power r.b4) true], reasons := [] } ∧
    exec (.decode (frameOf r.b0 key power r.b4) 0#16) s =
      .next { s with delivered := [.decoded (some ⟨key, r.chan, r.cmd, power⟩)], reasons := [] }

/-- R130 and R132 to R135: DECODE's three checks in their order, and the tuple; no state changes. -/
def Obligations.DecodeChecksKeyThenChannelThenMode : Prop :=
  ∀ (f : Frame) (filter : BitVec 16) (s : State),
    let key := f.extractLsb' 16 16
    let mode := f.extractLsb' 32 4
    let modec := f.extractLsb' 4 4
    let one := f.extractLsb' 36 4 = 0b1000#4 ∧ f.extractLsb' 0 4 = 0b1110#4
    let two := f.extractLsb' 36 4 = 0b1111#4 ∧ f.extractLsb' 0 4 = 0b0000#4
    let keyOk := filter = 0#16 ∨ key = filter
    let rejected := fun r => exec (.decode f filter) s =
      .next { s with delivered := [.decoded none], reasons := [r] }
    (¬ keyOk → rejected .keyMismatch) ∧
    (keyOk → ¬ one → ¬ two → rejected .badChannel) ∧
    (keyOk → one ∨ two →
      ¬ (mode = 0b1000#4 ∧ modec = 0b1110#4) → ¬ (mode = 0b0100#4 ∧ modec = 0b1101#4) →
      ¬ (mode = 0b0010#4 ∧ modec = 0b1011#4) → ¬ (mode = 0b0001#4 ∧ modec = 0b0111#4) → rejected .badMode) ∧
    (∀ (chan : BitVec 2) (cmd : BitVec 3), keyOk → (one ∧ chan = 1#2) ∨ (two ∧ chan = 2#2) →
      (mode = 0b1000#4 ∧ modec = 0b1110#4 ∧ cmd = 1#3) ∨ (mode = 0b0100#4 ∧ modec = 0b1101#4 ∧ cmd = 2#3) ∨
      (mode = 0b0010#4 ∧ modec = 0b1011#4 ∧ cmd = 3#3) ∨ (mode = 0b0001#4 ∧ modec = 0b0111#4 ∧ cmd = 4#3) →
      exec (.decode f filter) s =
        .next { s with delivered := [.decoded (some ⟨key, chan, cmd, f.extractLsb' 8 8⟩)], reasons := [] })

/-- R136: the round trip, with no filter and with the key as filter, and its converse. -/
def Obligations.EncodeDecodeRoundTrip : Prop :=
  (∀ (key : BitVec 16) (chan : BitVec 2) (cmd : BitVec 3) (power : BitVec 8), isChannel chan → isCommand cmd →
    packetDecode (packetEncode key chan cmd power).1 0#16 = .ok ⟨key, chan, cmd, power⟩ ∧
    packetDecode (packetEncode key chan cmd power).1 key = .ok ⟨key, chan, cmd, power⟩) ∧
  (∀ (f : Frame) (d : Tuple), packetDecode f 0#16 = .ok d → packetEncode d.key d.chan d.cmd d.power = (f, true))

/-- R137: one flipped bit of byte 0 or byte 4 makes DECODE reject; one flipped bit of bytes 1 to 3 gives another
valid frame, rejected only by a filter and a key bit; six flips swap the channels; two frames of different type
differ in at least four bits of bytes 0 and 4, and some differ in just four. -/
def Obligations.SingleBitFlipsOfAValidFrame : Prop :=
  (∀ (f : Frame) (d : Tuple), packetDecode f 0#16 = .ok d →
    (∀ i < 40, i < 8 ∨ 32 ≤ i → ∀ filter, ∃ r, packetDecode (f ^^^ (1#40 <<< i)) filter = .error r) ∧
    (∀ i, 8 ≤ i → i < 32 →
      (∃ d', packetDecode (f ^^^ (1#40 <<< i)) 0#16 = .ok d' ∧ d' ≠ d ∧ d'.chan = d.chan ∧ d'.cmd = d.cmd ∧
        (d.key ≠ 0#16 → i < 16 → packetDecode (f ^^^ (1#40 <<< i)) d.key = .ok d')) ∧
      (d.key ≠ 0#16 → 16 ≤ i → packetDecode (f ^^^ (1#40 <<< i)) d.key = .error .keyMismatch)) ∧
    packetDecode (f ^^^ 0x700000000E#40) 0#16 = .ok { d with chan := ~~~ d.chan }) ∧
  (∀ (f g : Frame) (d e : Tuple), packetDecode f 0#16 = .ok d → packetDecode g 0#16 = .ok e →
    (d.chan, d.cmd) ≠ (e.chan, e.cmd) → 4 ≤ ones ((f ^^^ g) &&& 0xFF000000FF#40)) ∧
  (∀ (key : BitVec 16) (power : BitVec 8),
    ones ((packetEncode key 1#2 1#3 power).1 ^^^ (packetEncode key 1#2 2#3 power).1) = 4)

/-- R87: in every valid frame byte 4 is byte 0 reversed and inverted. -/
def Obligations.Byte4IsByte0ReversedAndInverted : Prop :=
  ∀ (f : Frame) (d : Tuple), packetDecode f 0#16 = .ok d →
    ∀ i < 8, (byteAt f 4).getLsbD i = !(byteAt f 0).getLsbD (7 - i)

/-- R93: matching the eight (match, mask) pairs and then applying the key filter accepts exactly the frames DECODE
accepts, and the instruction decoder names the row. -/
def Obligations.EightPatternsAreWhatDecodeAccepts : Prop :=
  (∀ (f : Frame) (filter : BitVec 16),
    (∃ d, packetDecode f filter = .ok d) ↔
      ((∃ r ∈ frameTable, f &&& 0xFF000000FF#40 = frameOf r.b0 0#16 0#8 r.b4) ∧
        (filter = 0#16 ∨ f.extractLsb' 16 16 = filter))) ∧
  (∀ (f : Frame) (i : Instr), decode (.frame f) = .ok i ↔
    ∃ r ∈ frameTable, f &&& 0xFF000000FF#40 = frameOf r.b0 0#16 0#8 r.b4 ∧
      i = r.instr (f.extractLsb' 16 16) (f.extractLsb' 8 8)) ∧
  frameTable.Pairwise fun r q => frameOf r.b0 0#16 0#8 r.b4 ≠ frameOf q.b0 0#16 0#8 q.b4

/-! ## PulseTransmitter -/

/-- R151: where every operation before it has returned (where not, CallsWaitForThoseBeforeThem), EMIT of a frame whose
lead-in bit is 1 starts its emission, whatever the rest of the frame; EMIT of a sentinel changes nothing and takes no
time. -/
def Obligations.EmitTestsTheLeadInBitOnly : Prop :=
  ∀ (f : Frame) (s : State), agentIdle s →
    (f.getLsbD 39 = true → exec (.emit f) s = .next { s with
      tx := { s.tx with frame := f, deadline := s.clock, sym := 0#6, out := false, active := true, gap := false,
                        fallAt := s.clock, byHost := true }
      waves := s.waves ++ [.emitted f s.clock, .edge .txActive true s.clock]
      delivered := [], reasons := [] }) ∧
    (f.getLsbD 39 = false → exec (.emit f) s =
      .next { s with delivered := [.emitReturned], reasons := [.sentinelFrame] })

/-- While `tx_busy` is 1 a request to EMIT is ignored (41_pulse_transmitter.md section 1, Blocking and busy). -/
def Obligations.EmitWhileBusyIsIgnored : Prop :=
  ∀ (f : Frame) (s : State), s.tx.sym ≠ 63#6 → exec (.emit f) s = .next { s with delivered := [], reasons := [] }

/-- R162 (the rows after EMIT's own): each symbol rises at the deadline and falls its on-duration later, the
deadline advances by the symbol's total and `tx_sym` by 1; at 42 the indicator falls and the silence begins, and
at its end EMIT returns, to the host where the emission was the host's. Time may pass to the
transition, freely or under a turn of the clock (log entry 2; two transitions a pulse: log entry 3); no draws, the
last fall not after the deadline. -/
def Obligations.EmissionTransitions : Prop :=
  ∀ s : State, s.draws = [] → s.tx.Ok → s.tx.out = false → mayPass s s.tx.deadline →
    (s.tx.sym.toNat ≤ 41 → (s.tx.deadline - s.tx.fallAt).toNat < 2 ^ 31 →
      let on := pulseWidth s.tx.frame s.tx.sym.toNat
      let total := if s.tx.sym.toNat = 0 then 2250 else 1000
      mayPass s (after s.tx.deadline on) →
      ∃ t : State, Sys2Proof.core.run 2 s = .next t ∧
        t = { s with
          tx := { s.tx with sym := s.tx.sym + 1#6, deadline := after s.tx.deadline total,
                            fallAt := after s.tx.deadline on }
          waves := s.waves ++ [.edge .txOut true s.tx.deadline, .edge .txOut false (after s.tx.deadline on)]
          clock := later (later s.clock s.tx.deadline) (after s.tx.deadline on)
          delivered := [], reasons := [] }) ∧
    (s.tx.sym = 42#6 → s.tx.gap = false →
      step s = .next { s with
        tx := { s.tx with active := false, gap := true, deadline := after s.tx.deadline 9000 }
        waves := s.waves ++ [.edge .txActive false s.tx.deadline]
        clock := later s.clock s.tx.deadline, delivered := [], reasons := [] }) ∧
    (s.tx.sym = 42#6 → s.tx.gap = true →
      step s = .next { s with
        tx := { s.tx with sym := 63#6, gap := false }
        waves := s.waves ++ [.returned s.tx.deadline]
        clock := later s.clock s.tx.deadline
        delivered := if s.tx.byHost = true then [.emitReturned] else [], reasons := [] })

/-- R154, R155, R159 and R157: EMIT of a frame with lead-in bit 1, carried on with no draws while nothing else has a
turn, drives exactly the nominal 42 rises and 42 falls, the indicator from `t0` to `t0 + 43250`, and returns at
`t0 + 52250` with nothing else changed. That time passes freely, or to a clock turn at or after the return, is log
entry 2; that a pulse is two of the 86 steps, log entry 3. -/
def Obligations.EmissionDrivesTheNominalWaveform : Prop :=
  ∀ (f : Frame) (s : State), f.getLsbD 39 = true → agentIdle s → s.draws = [] →
    (s.script = [] ∨ ∃ d rest, s.script = .clock (after s.clock d) :: rest ∧ 52250 ≤ d ∧ d < 2 ^ 31) →
    ∃ s₀ t : State, exec (.emit f) s = .next s₀ ∧ Sys2Proof.core.run 86 s₀ = .next t ∧
      t = { s with
        tx := { s.tx with frame := f, sym := 63#6, deadline := after s.clock 52250, out := false, active := false,
                          gap := false, fallAt := after s.clock 42500, byHost := true }
        clock := after s.clock 52250
        waves := s.waves ++ [.emitted f s.clock, .edge .txActive true s.clock] ++
          lineWaves (nominalPulse f s.clock) ++
          [.edge .txActive false (after s.clock 43250), .returned (after s.clock 52250)]
        delivered := [.emitReturned], reasons := [] }

/-- R153: the deadlines are those of the nominal durations for every frame and for any draws. With an empty script;
under a clock turn DueTransitionsComeBeforeTheClock says that the steps are the same (log entry 2). -/
def Obligations.DeadlinesDoNotDependOnJitter : Prop :=
  ∀ (f : Frame) (s : State), f.getLsbD 39 = true → agentIdle s → s.script = [] →
    ∃ s₀, exec (.emit f) s = .next s₀ ∧
      ∀ k ≤ 42, ∃ t : State, Sys2Proof.core.run (2 * k) s₀ = .next t ∧ t.tx.sym = BitVec.ofNat 6 k ∧
        t.tx.out = false ∧ t.tx.frame = f ∧ t.tx.deadline = after s.clock (pulseStart k)

/-- R156 and R161's clause on small overruns: a pulse rises its own `j` late and falls after its on-duration less
`C` plus `o`; if the overrun is below the off-duration the next pulse is not delayed by it. Where the last fall
came after the deadline, the pulse rises at that fall plus its own `j`. Time may pass to rise and fall (log entry 2). -/
def Obligations.OverrunsAreNotCompounded : Prop :=
  ∀ (s : State) (j o : Time) (rest : List (Time × Time)), s.draws = (j, o) :: rest →
    s.tx.sym.toNat ≤ 41 → s.tx.out = false →
    let on := pulseWidth s.tx.frame s.tx.sym.toNat
    let off := if s.tx.sym.toNat = 0 then 750 else 1000 - on
    let inTime := (s.tx.deadline - s.tx.fallAt).toNat < 2 ^ 31
    let rise := (if inTime then s.tx.deadline else s.tx.fallAt) + j
    mayPass s rise → mayPass s (rise + BitVec.ofNat 32 (on - 2) + o) →
    ∃ t : State, Sys2Proof.core.run 2 s = .next t ∧
      t.waves = s.waves ++ [.edge .txOut true rise, .edge .txOut false (rise + BitVec.ofNat 32 (on - 2) + o)] ∧
      t.draws = rest ∧ t.tx.deadline = after s.tx.deadline (on + off) ∧
      (inTime → j.toNat + o.toNat < off + 2 → (t.tx.deadline - t.tx.fallAt).toNat < 2 ^ 31)

/-- `tx_sym` goes 63, 0, 1, ..., 42, 63, one at a time, or to 63 by RESET (10_state.md section 2). -/
def Obligations.SequencerNeverSkips : Prop :=
  ∀ s t : State, s.tx.Ok → step s = .next t →
    t.tx.sym = s.tx.sym ∨ (s.tx.sym = 63#6 ∧ t.tx.sym = 0#6) ∨
    (s.tx.sym.toNat < 42 ∧ t.tx.sym = s.tx.sym + 1#6) ∨ (s.tx.sym = 42#6 ∧ t.tx.sym = 63#6) ∨
    (∃ r rest, s.script = .call r :: rest ∧ decode r = .ok .reset ∧ t.tx.sym = 63#6)

/-! ## TransmissionSession -/

/-- A session with a legal command and a non-empty selector encodes one frame per selected channel, channel 1
first, with the present `tx_key`, and latches its operands; nothing is sent yet (42_transmission_session.md). The
place in the loop is log entry 4; that `ses_done` goes to 0 is log entry 25. Where an operation before it has not
returned it waits (CallsWaitForThoseBeforeThem). -/
def Obligations.SessionEncodesItsFramesAtStart : Prop :=
  ∀ (cmd : BitVec 3) (sel : BitVec 2) (power : BitVec 8) (budget : BitVec 32) (ce c : Bool) (s : State),
    agentIdle s → isCommand cmd → sel ≠ 0#2 →
    ∃ f fs, roundFrames s.tx.key cmd sel power = f :: fs ∧
      exec (.sessionRun cmd sel power budget ce c) s = .next { s with
        cancel := c
        ses := { s.ses with frame0 := f, frame1 := fs.headD s.ses.frame1, n := BitVec.ofNat 2 (fs.length + 1),
                            tBegin := s.clock, round := 0#32, done := false, phase := .check, budget := budget,
                            cancelEn := ce, keepalive := false }
        delivered := [], reasons := [] }

/-- An illegal command or an empty selector ends the session at once with ERROR and nothing is emitted
(42_transmission_session.md; that the session temporaries stay as they are is log entry 13). -/
def Obligations.SessionErrorsSendNothing : Prop :=
  ∀ (cmd : BitVec 3) (sel : BitVec 2) (power : BitVec 8) (budget : BitVec 32) (ce c : Bool) (s : State),
    agentIdle s → (¬ isCommand cmd ∨ sel = 0#2) →
    exec (.sessionRun cmd sel power budget ce c) s = .next { s with
      cancel := c
      ses := { s.ses with result := .error, done := true }
      waves := s.waves ++ [.sessionEnded .error s.clock]
      delivered := [.session .error]
      reasons := [if sel = 0#2 then .sessionNoChannel else .sessionEncodeFailed] }

/-- The loop's checks: cancellation wins over the budget; a non-negative budget is a duration in units of
BUDGET_UNIT_US, a negative one a count of rounds; a session that a keep-alive issued records its time when it ends
(42_transmission_session.md; log entries 4 and 15). Under a turn of the clock too (log entry 2). -/
def Obligations.SessionChecksCancellationThenBudget : Prop :=
  ∀ s : State, mayPass s s.clock → s.tx.sym = 63#6 → s.ses.phase = .check →
    let polls := if s.ses.cancelEn = true then [Wave.polled s.cancel s.clock] else []
    let reached := (0 ≤ s.ses.budget.toInt ∧
        s.ses.budget.toInt.toNat * Config.budgetUnitUs ≤ (s.clock - s.ses.tBegin).toNat) ∨
      (s.ses.budget.toInt < 0 ∧ (-s.ses.budget.toInt).toNat ≤ s.ses.round.toNat)
    let ka := if s.ses.keepalive = true then { s.ka with tLast := s.hostSeconds } else s.ka
    ((s.ses.cancelEn = true ∧ s.cancel = true) → step s = .next { s with
      ses := { s.ses with phase := .idle, result := .cancelled, done := true }
      ka := ka
      waves := s.waves ++ polls ++ [.sessionEnded .cancelled s.clock]
      delivered := [.session .cancelled], reasons := [.cancelled] }) ∧
    (¬ (s.ses.cancelEn = true ∧ s.cancel = true) → reached → step s = .next { s with
      ses := { s.ses with phase := .idle, result := .ok, done := true }
      ka := ka
      waves := s.waves ++ polls ++ [.sessionEnded .ok s.clock]
      delivered := [.session .ok], reasons := [] }) ∧
    (¬ (s.ses.cancelEn = true ∧ s.cancel = true) → ¬ reached → step s = .next { s with
      ses := { s.ses with phase := .round 0 }
      waves := s.waves ++ polls
      delivered := [], reasons := [] })

/-- A round starts the emission of `ses_frame[0]` and, with two channels, of `ses_frame[1]`, and then counts itself
and returns to the check (42_transmission_session.md; the step machine is log entry 4). Under a turn of the clock too
(log entry 2). -/
def Obligations.SessionRoundEmitsEachFrameOnce : Prop :=
  ∀ (s : State) (i : Nat), mayPass s s.clock → s.tx.sym = 63#6 → s.ses.phase = .round i →
    (i < s.ses.n.toNat → step s = .next { s with
      ses := { s.ses with phase := .round (i + 1) }
      tx := { s.tx with frame := if i = 0 then s.ses.frame0 else s.ses.frame1, deadline := s.clock, sym := 0#6,
                        out := false, active := true, gap := false, fallAt := s.clock, byHost := false }
      waves := s.waves ++ [.emitted (if i = 0 then s.ses.frame0 else s.ses.frame1) s.clock,
                           .edge .txActive true s.clock]
      delivered := [], reasons := [] }) ∧
    (s.ses.n.toNat ≤ i → step s = .next { s with
      ses := { s.ses with phase := .check, round := s.ses.round + 1#32 }
      delivered := [], reasons := [] })

/-- A session with a negative budget of magnitude N that is not cancelled sends exactly N rounds, returns OK after
N x ses_n x 52250 us and, if a predicate is provided, polls it N + 1 times (42_transmission_session.md, Properties
from section 8 (a) and (d)). The run with an empty script is log entry 2, under a clock turn
DueTransitionsComeBeforeTheClock says that the steps are the same; the checks that take no time are log entry 4. -/
def Obligations.CountBudgetSendsExactlyThatManyRounds : Prop :=
  ∀ (cmd : BitVec 3) (sel : BitVec 2) (power : BitVec 8) (N : Nat) (ce : Bool) (s : State),
    agentIdle s → isCommand cmd → sel ≠ 0#2 → s.draws = [] → s.script = [] → 1 ≤ N → N ≤ 2 ^ 31 →
    let fs := roundFrames s.tx.key cmd sel power
    ∃ (s₀ : State) (k : Nat) (t : State),
      exec (.sessionRun cmd sel power (BitVec.ofInt 32 (-(N : Int))) ce false) s = .next s₀ ∧
      Sys2Proof.core.run k s₀ = .next t ∧
      t.ses.phase = .idle ∧ t.ses.result = .ok ∧ t.ses.done = true ∧ t.delivered = [.session .ok] ∧
      t.ses.round = BitVec.ofNat 32 N ∧ t.tx.sym = 63#6 ∧ t.rx = s.rx ∧ t.tx.key = s.tx.key ∧
      emittedFrames t.waves = emittedFrames s.waves ++ (List.replicate N fs).flatten ∧
      pollCount t.waves = pollCount s.waves + (if ce = true then N + 1 else 0) ∧
      t.clock = after s.clock (N * fs.length * 52250)

/-- KEEPALIVE_TICK: with a non-empty mask and more than 120 s since the last, it issues the session LED on the
mask's channels with KEEPALIVE_POWER, three rounds, no predicate; otherwise it does nothing
(42_transmission_session.md, the keep-alive wrapper; the seconds clock is log entry 15, the latched operands and the
place in the loop log entry 4, `ses_done` := 0 log entry 25). -/
def Obligations.KeepaliveTickIssuesTheFixedSession : Prop :=
  ∀ s : State, agentIdle s →
    ((s.ka.mask ≠ 0#2 ∧ 120 < (s.hostSeconds - s.ka.tLast).toNat) →
      ∃ f fs, roundFrames s.tx.key 1#3 s.ka.mask Config.keepalivePower = f :: fs ∧
        exec .keepaliveTick s = .next { s with
          ses := { s.ses with frame0 := f, frame1 := fs.headD s.ses.frame1, n := BitVec.ofNat 2 (fs.length + 1),
                              tBegin := s.clock, round := 0#32, done := false, phase := .check,
                              budget := 0xFFFFFFFD#32, cancelEn := false, keepalive := true }
          delivered := [], reasons := [] }) ∧
    (¬ (s.ka.mask ≠ 0#2 ∧ 120 < (s.hostSeconds - s.ka.tLast).toNat) →
      exec .keepaliveTick s = .next { s with delivered := [], reasons := [] })

/-! ## ReceiverDecoder -/

/-- R190 and R191: a call with an unchanged level changes nothing; a rise records the time; a fall is RX_FALL; and a
result other than NONE comes only from a fall that brings the 40th bit. -/
def Obligations.RxSampleActsOnLevelChangesOnly : Prop :=
  ∀ (level : Bool) (T : Time) (s : State),
    (level = s.rx.lastLevel → exec (.rxSample level T) s =
      .next { s with delivered := [.rx .none], reasons := [] }) ∧
    (level = true → s.rx.lastLevel = false → exec (.rxSample level T) s =
      .next { s with rx := { s.rx with lastLevel := true, tRise := T }, delivered := [.rx .none], reasons := [] }) ∧
    (level = false → s.rx.lastLevel = true →
      ∃ t, exec (.rxFall T) { s with rx := { s.rx with lastLevel := false } } = .next t ∧
        exec (.rxSample level T) s = .next t) ∧
    (∀ t, exec (.rxSample level T) s = .next t → t.delivered ≠ [.rx .none] →
      level = false ∧ s.rx.lastLevel = true ∧ s.rx.count = 39#6 ∧ t.rx.count = 40#6) ∧
    exec (.rxRise T) s =
      .next { s with rx := { s.rx with tRise := T }, delivered := [.rx .none], reasons := [] }

/-- R193: the three windows, all bounds exclusive, disjoint, and noise everywhere else. `w_start_hi` is that of the
instance under the ports (log entry 18). -/
def Obligations.PulseWidthClasses : Prop :=
  ∀ (w : Time) (s : State), ∃ c, exec (.classify w) s =
      .next { s with delivered := [.classified c], reasons := [] } ∧
    (c = .bit false ↔ 100 < w.toNat ∧ w.toNat < 400) ∧
    (c = .bit true ↔ 600 < w.toNat ∧ w.toNat < 900) ∧
    (c = .start ↔ 1300 < w.toNat ∧ w.toNat < s.rx.wStartHi.toNat) ∧
    (c = .noise ↔ ¬ (100 < w.toNat ∧ w.toNat < 400) ∧ ¬ (600 < w.toNat ∧ w.toNat < 900) ∧
      ¬ (1300 < w.toNat ∧ w.toNat < s.rx.wStartHi.toNat))

/-- R192: a fall takes the width from the last rise, modulo 2^32, and does what its class says. -/
def Obligations.FallingEdgeDoesWhatItsWidthSays : Prop :=
  ∀ (T : Time) (s : State),
    let w := (T - s.rx.tRise).toNat
    ((100 < w ∧ w < 400) → ∃ t, exec (.rxBit false T) s = .next t ∧ exec (.rxFall T) s = .next t) ∧
    ((600 < w ∧ w < 900) → ∃ t, exec (.rxBit true T) s = .next t ∧ exec (.rxFall T) s = .next t) ∧
    ((1300 < w ∧ w < s.rx.wStartHi.toNat) → ∃ t, exec (.rxStart T) s = .next t ∧ exec (.rxFall T) s = .next t) ∧
    (¬ (100 < w ∧ w < 400) → ¬ (600 < w ∧ w < 900) → ¬ (1300 < w ∧ w < s.rx.wStartHi.toNat) →
      exec (.rxFall T) s = .next { s with delivered := [.rx .none], reasons := [.noiseWidth] })

/-- R194: a start marker clears buffer and counter and records its falling edge, in every state. -/
def Obligations.StartMarkerBeginsAFrame : Prop :=
  ∀ (T : Time) (s : State), exec (.rxStart T) s = .next { s with
    rx := { s.rx with buf := 0#40, count := 0#6, tStart := T }
    delivered := [.rx .none], reasons := truncation s.rx }

/-- R195: with 40 or more bits (IDLE too) a data bit is ignored; otherwise it becomes bit `39 - rx_count` of the
buffer, no other bit changes, the counter goes up by 1, and the 40th bit is followed by RX_COMPLETE. -/
def Obligations.DataBitIsAppendedOrIgnored : Prop :=
  ∀ (b : Bool) (T : Time) (s : State),
    (40 ≤ s.rx.count.toNat → exec (.rxBit b T) s =
      .next { s with delivered := [.rx .none], reasons := [.strayBit] }) ∧
    (s.rx.count.toNat < 40 → ∃ buf : Frame,
      (∀ i < 40, buf.getLsbD i = if i = 39 - s.rx.count.toNat then b else s.rx.buf.getLsbD i) ∧
      (s.rx.count.toNat < 39 → exec (.rxBit b T) s = .next { s with
        rx := { s.rx with buf := buf, count := s.rx.count + 1#6 }
        delivered := [.rx .none], reasons := [] }) ∧
      (s.rx.count.toNat = 39 →
        ∃ t, exec (.rxComplete T) { s with rx := { s.rx with buf := buf, count := 40#6 } } = .next t ∧
          exec (.rxBit b T) s = .next t))

/-- R196, R197, R198: the duration gate, inclusive at both ends, then DECODE with the present filter, then the
report; counter and buffer stay; a discard changes no stored state. -/
def Obligations.CompletionGatesThenDecodesThenReports : Prop :=
  ∀ (T : Time) (s : State),
    let dur := (T - s.rx.tStart).toNat
    ((dur < 37000 ∨ 42000 < dur) → exec (.rxComplete T) s =
      .next { s with delivered := [.rx .none], reasons := [.badDuration] }) ∧
    (37000 ≤ dur → dur ≤ 42000 → ∀ t, exec (.decode s.rx.buf s.rx.keyFilter) s = .next t →
      (t.delivered = [.decoded none] →
        exec (.rxComplete T) s = .next { s with delivered := [.rx .none], reasons := t.reasons }) ∧
      (∀ d, t.delivered = [.decoded (some d)] →
        ∃ u, exec (.rxReport d T) s = .next u ∧ exec (.rxComplete T) s = .next u)) ∧
    (∀ t, exec (.rxComplete T) s = .next t → t.rx.count = s.rx.count ∧ t.rx.buf = s.rx.buf)

/-- R199: REPEAT when a frame was accepted before, the gap from its end to this frame's start is strictly below
120000 us and all four components are equal; NEW otherwise; the end time is written in both cases. -/
def Obligations.RepeatSuppression : Prop :=
  ∀ (d : Tuple) (T : Time) (s : State),
    let again := s.rx.lastValid = true ∧ (s.rx.tStart - s.rx.tEnd).toNat < 120000 ∧
      d.key = s.rx.last.key ∧ d.chan = s.rx.last.chan ∧ d.cmd = s.rx.last.cmd ∧ d.power = s.rx.last.power
    (again → exec (.rxReport d T) s = .next { s with
      rx := { s.rx with tEnd := T }, delivered := [.rx .repeated], reasons := [] }) ∧
    (¬ again → exec (.rxReport d T) s = .next { s with
      rx := { s.rx with last := d, lastValid := true, tEnd := T }, delivered := [.rx .new], reasons := [] })

/-- What is reported was received: a result NEW or REPEAT comes only with a duration inside the gate and a buffer
that DECODE accepts under the filter, whose tuple is then the stored one (60_exceptions.md section 3). -/
def Obligations.AcceptanceIsSound : Prop :=
  ∀ (level : Bool) (T : Time) (s t : State) (r : RxResult), exec (.rxSample level T) s = .next t →
    t.delivered = [.rx r] → r ≠ .none →
    37000 ≤ (T - s.rx.tStart).toNat ∧ (T - s.rx.tStart).toNat ≤ 42000 ∧
    packetDecode t.rx.buf s.rx.keyFilter = .ok t.rx.last ∧ t.rx.lastValid = true ∧ t.rx.tEnd = T ∧
    r = reportOf s.rx t.rx.last s.rx.tStart

/-- A call that returns NONE leaves the accepted command, its flag, its end time and the filter as they were
(60_exceptions.md section 4). -/
def Obligations.NoneKeepsTheAcceptedCommand : Prop :=
  ∀ (i : Instr) (s t : State), singleCall i = true → exec i s = .next t → t.delivered = [.rx .none] →
    t.rx.last = s.rx.last ∧ t.rx.lastValid = s.rx.lastValid ∧ t.rx.tEnd = s.rx.tEnd ∧
    t.rx.keyFilter = s.rx.keyFilter

/-- The same sample presented a second time changes nothing and returns NONE (20_memory.md section 4, Side effects). -/
def Obligations.SamplingTwiceIsIdempotent : Prop :=
  ∀ (level : Bool) (T T' : Time) (s t : State), exec (.rxSample level T) s = .next t →
    exec (.rxSample level T') t = .next { t with delivered := [.rx .none], reasons := [] }

/-- R202: 42 pulses whose widths lie in the windows of a frame's symbols and whose duration passes the gate are
one report, at the 82nd of the 84 calls, with the tuple the frame encodes; the edges of a nominal emission are
such pulses, with the report at `t0 + 41500`. -/
def Obligations.LoopBackAcceptance : Prop :=
  ∀ (f : Frame) (d : Tuple) (s : State), packetDecode f s.rx.keyFilter = .ok d → s.rx.lastLevel = false →
    (∀ p : Nat → Time × Time,
      (1300 < ((p 0).2 - (p 0).1).toNat ∧ ((p 0).2 - (p 0).1).toNat < s.rx.wStartHi.toNat) →
      (∀ k, 1 ≤ k → k ≤ 41 →
        if k ≤ 40 ∧ f.getLsbD (40 - k) = true
        then 600 < ((p k).2 - (p k).1).toNat ∧ ((p k).2 - (p k).1).toNat < 900
        else 100 < ((p k).2 - (p k).1).toNat ∧ ((p k).2 - (p k).1).toNat < 400) →
      (37000 ≤ ((p 40).2 - (p 0).2).toNat ∧ ((p 40).2 - (p 0).2).toNat ≤ 42000) →
      ∃ t, sampled (samplesOf p) s = some (t, oneReport (reportOf s.rx d (p 0).2)) ∧
        t = { s with
          rx := { s.rx with count := 40#6, buf := f, tRise := (p 41).1, tStart := (p 0).2, tEnd := (p 40).2,
                            last := d, lastValid := true }
          delivered := [.rx .none], reasons := [.strayBit] }) ∧
    (∀ t0 : Time, 1500 < s.rx.wStartHi.toNat →
      ∃ t, sampled (samplesOf (nominalPulse f t0)) s =
          some (t, oneReport (reportOf s.rx d (after t0 1500))) ∧
        t.rx.tStart = after t0 1500 ∧ t.rx.tEnd = after t0 41500 ∧ t.rx.last = d ∧ t.rx.lastValid = true)

/-- Each frame type, arriving on the input line at the present time as log entry 5 says. Where the first pulse
classifies as a start marker (on a line last seen high its width counts from the earlier rise), the frame is reported
NEW or REPEAT with its own channel, command, key and power if the filter lets the key pass, and gives NONE throughout
if not. Where the first pulse is no start marker and no frame is in progress, every call gives NONE and the stored
frame stands. In every state the effect is that of the 84 samples. -/
def Obligations.FrameOnTheWireIsReported : Prop :=
  ∀ r ∈ frameTable, ∀ (key : BitVec 16) (power : BitVec 8) (s : State),
    let w := measuredWidth s.rx s.clock (after s.clock 1500)
    let isStart := 1300 < w ∧ w < s.rx.wStartHi.toNat
    let isBit := (100 < w ∧ w < 400) ∨ (600 < w ∧ w < 900)
    (isStart → (s.rx.keyFilter = 0#16 ∨ s.rx.keyFilter = key) →
      exec (r.instr key power) s = .next { s with
        rx := { s.rx with lastLevel := false, count := 40#6, buf := frameOf r.b0 key power r.b4,
                          tRise := after s.clock 42250, tStart := after s.clock 1500, tEnd := after s.clock 41500,
                          last := ⟨key, r.chan, r.cmd, power⟩, lastValid := true }
        delivered := oneReport (reportOf s.rx ⟨key, r.chan, r.cmd, power⟩ (after s.clock 1500))
        reasons := truncation s.rx ++ [.strayBit]
        script := .clock (after s.clock 52250) :: s.script }) ∧
    (isStart → s.rx.keyFilter ≠ 0#16 → s.rx.keyFilter ≠ key →
      exec (r.instr key power) s = .next { s with
        rx := { s.rx with lastLevel := false, count := 40#6, buf := frameOf r.b0 key power r.b4,
                          tRise := after s.clock 42250, tStart := after s.clock 1500 }
        delivered := List.replicate 84 (.rx .none)
        reasons := truncation s.rx ++ [.keyMismatch, .strayBit]
        script := .clock (after s.clock 52250) :: s.script }) ∧
    (¬ isStart → 40 ≤ s.rx.count.toNat →
      exec (r.instr key power) s = .next { s with
        rx := { s.rx with lastLevel := false, tRise := after s.clock 42250 }
        delivered := List.replicate 84 (.rx .none)
        reasons := (if isBit then .strayBit else .noiseWidth) :: List.replicate 41 .strayBit
        script := .clock (after s.clock 52250) :: s.script }) ∧
    (∃ t, exec (r.instr key power) s = .next t ∧
      Arrives (samplesOf (nominalPulse (frameOf r.b0 key power r.b4) s.clock)) (after s.clock 52250) s t)

/-- A 40-bit word that is none of the eight patterns is received and rejected silently: where its first pulse
classifies as a start marker, NONE throughout and no stored state changed; in every state the effect is that of the 84
samples (30_encoding.md section 6; that it arrives as a waveform is log entry 7). -/
def Obligations.IllegalFrameIsRejectedSilently : Prop :=
  ∀ (f : Frame) (e : DecodeError) (s : State) (rest : List Turn), decode (.frame f) = .error e →
    ∃ t, step { s with script := .call (.frame f) :: rest } = .next t ∧
      Arrives (samplesOf (nominalPulse f s.clock)) (after s.clock 52250) { s with script := rest } t ∧
      t.tx = s.tx ∧ t.ses = s.ses ∧ t.txCalls = s.txCalls ∧ t.ka = s.ka ∧
      (1300 < measuredWidth s.rx s.clock (after s.clock 1500) →
        measuredWidth s.rx s.clock (after s.clock 1500) < s.rx.wStartHi.toNat →
        t.delivered = List.replicate 84 (.rx .none) ∧ t.rx.buf = f ∧ t.rx.count = 40#6 ∧
        t.rx.last = s.rx.last ∧ t.rx.lastValid = s.rx.lastValid ∧ t.rx.tEnd = s.rx.tEnd ∧
        t.rx.keyFilter = s.rx.keyFilter)

/-- A symbol that arrives on the input line at the present time (log entry 6): on a line last seen low, START begins
a frame, ONE and ZERO are a data bit 1 and 0; on a line last seen high the symbol's fall ends the pulse that began at
the recorded rise. The line is then occupied for the symbol's total. -/
def Obligations.SymbolOnTheWire : Prop :=
  ∀ s : State,
    (s.rx.lastLevel = false →
      (1500 < s.rx.wStartHi.toNat → exec .start s = .next { s with
        rx := { s.rx with tRise := s.clock, buf := 0#40, count := 0#6, tStart := after s.clock 1500 }
        delivered := [.rx .none, .rx .none], reasons := truncation s.rx
        script := .clock (after s.clock 2250) :: s.script }) ∧
      (s.rx.wStartHi.toNat ≤ 1500 → exec .start s = .next { s with
        rx := { s.rx with tRise := s.clock }
        delivered := [.rx .none, .rx .none], reasons := [.noiseWidth]
        script := .clock (after s.clock 2250) :: s.script }) ∧
      (∃ t, exec (.rxBit true (after s.clock 750)) { s with rx := { s.rx with tRise := s.clock } } = .next t ∧
        exec .one s = .next { t with delivered := .rx .none :: t.delivered,
                                     script := .clock (after s.clock 1000) :: s.script }) ∧
      (∃ t, exec (.rxBit false (after s.clock 250)) { s with rx := { s.rx with tRise := s.clock } } = .next t ∧
        exec .zero s = .next { t with delivered := .rx .none :: t.delivered,
                                      script := .clock (after s.clock 1000) :: s.script })) ∧
    (s.rx.lastLevel = true →
      ∀ p ∈ [(Instr.start, 1500, 2250), (Instr.one, 750, 1000), (Instr.zero, 250, 1000)],
        ∃ t, exec (.rxFall (after s.clock p.2.1)) { s with rx := { s.rx with lastLevel := false } } = .next t ∧
          exec p.1 s = .next { t with delivered := .rx .none :: t.delivered,
                                      script := .clock (after s.clock p.2.2) :: s.script })

/-! ## Control, and the whole machine -/

/-- R45: CFG_WRITE writes the one register of its number, truncated to its width; other numbers are ignored. That
numbers 1 and 3 are those of the receive instance under the ports is the model's reading (log entries 17 and 18). -/
def Obligations.CfgWriteWritesOneRegister : Prop :=
  ∀ (v : BitVec 16) (s : State),
    exec (.cfgWrite 0 v) s = .next { s with tx := { s.tx with key := v }, delivered := [], reasons := [] } ∧
    exec (.cfgWrite 1 v) s = .next { s with rx := { s.rx with keyFilter := v }, delivered := [], reasons := [] } ∧
    exec (.cfgWrite 2 v) s =
      .next { s with ka := { s.ka with mask := v.setWidth 2 }, delivered := [], reasons := [] } ∧
    exec (.cfgWrite 3 v) s =
      .next { s with rx := { s.rx with wStartHi := v.setWidth 12 }, delivered := [], reasons := [] } ∧
    (∀ no, 4 ≤ no → exec (.cfgWrite no v) s = .next { s with delivered := [], reasons := [] })

/-- R260 and R50: RESET puts every element with a stated reset value at that value, whatever is in progress. What R50
leaves unspecified is not stated here. -/
def Obligations.ResetPutsEveryElementAtItsValue : Prop :=
  ∀ s : State, ∃ t, exec .reset s = .next t ∧
    t.tx.key = Config.txKeyDefault ∧ t.tx.frame = 0#40 ∧ t.tx.sym = 63#6 ∧ t.tx.out = false ∧
    t.tx.active = false ∧ t.tx.busy = false ∧ t.ka.mask = 0#2 ∧ t.ka.tLast = 0#32 ∧ t.rx.wStartHi = 1800#12 ∧
    t.rx.lastLevel = false ∧ t.rx.count = 63#6 ∧ t.rx.state = .idle ∧ t.rx.buf = 0#40 ∧ t.rx.tRise = 0#32 ∧
    t.rx.tStart = 0#32 ∧ t.rx.tEnd = 0#32 ∧ t.rx.last = ⟨0#16, 0#2, 0#3, 0#8⟩ ∧ t.rx.lastValid = false ∧
    t.rx.keyFilter = 0#16

/-- The model's choice of what else RESET does (log entry 16): every receive instance is reset, a session ends, a line
that is on falls now, the caller of an EMIT or of a session that is cut off, or whose call waits, gets nothing back and
nothing else is shown, and the clock and the rest of the environment go on. -/
def Obligations.ResetResetsAllInstancesAndLeavesTheEnvironment : Prop :=
  ∀ s : State, ∃ t, exec .reset s = .next t ∧ t.ses.phase = .idle ∧ t.txCalls = [] ∧ t.delivered = [] ∧
    t.rxOthers = s.rxOthers.map (fun _ => State.reset.rx) ∧ t.rx = State.reset.rx ∧
    (∃ ws, t.waves = s.waves ++ ws ∧
      (s.tx.out = true ↔ Wave.edge .txOut false s.clock ∈ ws) ∧
      (s.tx.active = true ↔ Wave.edge .txActive false s.clock ∈ ws) ∧
      ∀ w ∈ ws, w = .edge .txOut false s.clock ∨ w = .edge .txActive false s.clock) ∧
    t.clock = s.clock ∧ t.hostSeconds = s.hostSeconds ∧ t.cancel = s.cancel ∧ t.draws = s.draws ∧
    t.script = s.script

/-- The derived views and the result codes (10_state.md sections 2 to 4): `tx_busy`, `rx_state`, paired mode, the
command outputs, and the codes of `rx_result` and `ses_result`. -/
def Obligations.ViewsAndCodesFollowTheStoredState : Prop :=
  ∀ s : State,
    (s.tx.busy = true ↔ s.tx.sym ≠ 63#6) ∧
    (s.rx.state = .idle ↔ s.rx.count = 63#6) ∧ (s.rx.state = .accumulating ↔ s.rx.count.toNat ≤ 39) ∧
    (s.rx.state = .complete ↔ s.rx.count = 40#6) ∧ (s.rx.paired = true ↔ s.rx.keyFilter ≠ 0#16) ∧
    s.commandOutputs = s.rx.last ∧
    (RxResult.none.code, RxResult.new.code, RxResult.repeated.code) = (0#2, 1#2, 2#2) ∧
    (SesResult.ok.code, SesResult.error.code, SesResult.cancelled.code) = (0#2, 1#2, 2#2)

/-- Only CFG_WRITE and RESET write a configuration register (20_memory.md section 6, point (d)). -/
def Obligations.ConfigurationIsWrittenByCfgWriteAndResetOnly : Prop :=
  (∀ (i : Instr) (s t : State), (∀ no v, i ≠ .cfgWrite no v) → i ≠ .reset → exec i s = .next t →
    t.tx.key = s.tx.key ∧ t.rx.keyFilter = s.rx.keyFilter ∧ t.ka.mask = s.ka.mask ∧ t.rx.wStartHi = s.rx.wStartHi) ∧
  (∀ s t : State, (s.script = [] ∨ ∃ T rest, s.script = .clock T :: rest) → step s = .next t →
    t.tx.key = s.tx.key ∧ t.rx.keyFilter = s.rx.keyFilter ∧ t.ka.mask = s.ka.mask ∧ t.rx.wStartHi = s.rx.wStartHi)

/-- The receive side neither reads nor writes the transmit side: replacing the transmit group, the session, the
keep-alive and what they have shown changes nothing in what a receive operation does, and none of them changes
(20_memory.md section 6; 10_state.md section 1). -/
def Obligations.ReceiveSideIsIndependentOfTheTransmitSide : Prop :=
  ∀ (i : Instr) (s t : State), receiveSide i = true → exec i s = .next t →
    t.tx = s.tx ∧ t.ses = s.ses ∧ t.txCalls = s.txCalls ∧ t.ka = s.ka ∧ t.waves = s.waves ∧ t.draws = s.draws ∧
    t.clock = s.clock ∧
    ∀ (tx : TxGroup) (ses : SesGroup) (calls : List TxCall) (ka : KaGroup) (ws : List Wave)
      (ds : List (Time × Time)),
      exec i { s with tx := tx, ses := ses, txCalls := calls, ka := ka, waves := ws, draws := ds } =
        .next { t with tx := tx, ses := ses, txCalls := calls, ka := ka, waves := ws, draws := ds }

/-- The transmit side neither reads nor writes any receive instance, in its operations and in its own transitions
(20_memory.md section 6; 10_state.md section 1). -/
def Obligations.TransmitSideIsIndependentOfTheReceiveSide : Prop :=
  (∀ (i : Instr) (s t : State), transmitSide i = true → exec i s = .next t →
    t.rx = s.rx ∧ t.rxOthers = s.rxOthers ∧
    ∀ (rx : RxGroup) (others : List RxGroup), exec i { s with rx := rx, rxOthers := others } =
      .next { t with rx := rx, rxOthers := others }) ∧
  (∀ s t : State, (s.script = [] ∨ ∃ T rest, s.script = .clock T :: rest) → step s = .next t →
    t.rx = s.rx ∧ t.rxOthers = s.rxOthers ∧
    ∀ (rx : RxGroup) (others : List RxGroup), step { s with rx := rx, rxOthers := others } =
      .next { t with rx := rx, rxOthers := others })

/-- An operation other than RESET neither reads nor writes the other receive instances
(60_exceptions.md section 9; the bank is log entry 17). -/
def Obligations.ReceiveInstancesAreIsolated : Prop :=
  ∀ (i : Instr) (s t : State), i ≠ .reset → exec i s = .next t → t.rxOthers = s.rxOthers ∧
    ∀ others : List RxGroup, exec i { s with rxOthers := others } = .next { t with rxOthers := others }

/-! ## What the clock, a busy agent and other waveforms do -/

/-- The enabling condition of the transmit agent's transitions (`wait_until` of R10; log entry 2). A clock turn to a
time that has reached the next transition makes that transition, just as it happens where time passes freely, and
stays in front; a transition happens at its own time: afterwards the clock shows it, unless it had reached it. -/
def Obligations.DueTransitionsComeBeforeTheClock : Prop :=
  ∀ (s : State) (m : Time), nextTransitionAt s = some m →
    ∃ u, step { s with script := [] } = .next u ∧ u.script = [] ∧
      (isDue s.clock m → u.clock = s.clock) ∧ (¬ isDue s.clock m → u.clock = m) ∧
      ∀ t rest, isDue t m →
        step { s with script := .clock t :: rest } = .next { u with script := .clock t :: rest }

/-- While `tx_busy` is 1, EMIT, SESSION_RUN and KEEPALIVE_TICK change nothing (the model's choice beyond EMIT, log
entry 12). -/
def Obligations.RequestsToABusyTransmitAgentAreIgnored : Prop :=
  ∀ s : State, s.tx.sym ≠ 63#6 →
    (∀ f, exec (.emit f) s = .next { s with delivered := [], reasons := [] }) ∧
    (∀ cmd sel power budget ce c, exec (.sessionRun cmd sel power budget ce c) s =
      .next { s with delivered := [], reasons := [] }) ∧
    exec .keepaliveTick s = .next { s with delivered := [], reasons := [] }

/-- A string of slots that is none of the three symbols arrives as its samples, one every 250 us; its pulses classify
as they do; the transmit side is untouched; and if every call gives NONE the accepted command, its flag, its end time
and the filter stand (30_encoding.md section 6; that it arrives as a waveform is log entry 7). -/
def Obligations.OtherSlotStringsAreTheirPulses : Prop :=
  ∀ (bs : List Bool) (e : DecodeError) (s : State) (rest : List Turn), decode (.slots bs) = .error e →
    ∃ t, step { s with script := .call (.slots bs) :: rest } = .next t ∧
      Arrives (slotsAsSamples bs s.clock) (after s.clock (250 * bs.length)) { s with script := rest } t ∧
      t.delivered.length = bs.length ∧
      t.tx = s.tx ∧ t.ses = s.ses ∧ t.txCalls = s.txCalls ∧ t.ka = s.ka ∧ t.waves = s.waves ∧
      t.rxOthers = s.rxOthers ∧
      (t.delivered = List.replicate bs.length (.rx .none) →
        t.rx.last = s.rx.last ∧ t.rx.lastValid = s.rx.lastValid ∧ t.rx.tEnd = s.rx.tEnd ∧
        t.rx.keyFilter = s.rx.keyFilter)

/-- Operations of the transmit agent take effect one after another (20_memory.md section 6; that a call keeps its
operands while it waits, and that a session's predicate answers from its beginning on, is log entry 30). With
`tx_busy` = 0 and a session or another call unfinished, a call is taken and waits behind those before it; when they have
all returned it does what it would do if invoked then, and those behind it wait on. Under a turn of the clock too (log
entry 2). -/
def Obligations.CallsWaitForThoseBeforeThem : Prop :=
  (∀ (c : TxCall) (s : State), s.tx.sym = 63#6 → (s.ses.phase ≠ .idle ∨ s.txCalls ≠ []) →
    exec (callInstr c) s = .next { s with txCalls := s.txCalls ++ [c], delivered := [], reasons := [] }) ∧
  (∀ (c : TxCall) (cs : List TxCall) (s : State), mayPass s s.clock → s.tx.sym = 63#6 → s.ses.phase = .idle →
    s.txCalls = c :: cs →
    ∃ t, exec (callInstr c) { s with txCalls := [] } = .next t ∧ step s = .next { t with txCalls := cs })

/-- Two sessions and an EMIT invoked one right after another return in that order, each after all of its own frames:
the first session's rounds, then the second's, then the EMIT's frame (20_memory.md section 6; log entries 2, 4 and
30). -/
def Obligations.CallsReturnInTheOrderOfInvocation : Prop :=
  ∀ (cmd cmd' : BitVec 3) (sel sel' : BitVec 2) (power power' : BitVec 8) (N M : Nat) (f : Frame) (s : State),
    agentIdle s → isCommand cmd → isCommand cmd' → sel ≠ 0#2 → sel' ≠ 0#2 → f.getLsbD 39 = true →
    s.draws = [] → s.script = [] → 1 ≤ N → N ≤ 2 ^ 31 → 1 ≤ M → M ≤ 2 ^ 31 →
    let fs := roundFrames s.tx.key cmd sel power
    let gs := roundFrames s.tx.key cmd' sel' power'
    ∃ (s₁ s₂ s₃ t₁ t₂ t₃ : State) (k₁ k₂ k₃ : Nat),
      exec (.sessionRun cmd sel power (BitVec.ofInt 32 (-(N : Int))) false false) s = .next s₁ ∧
      exec (.sessionRun cmd' sel' power' (BitVec.ofInt 32 (-(M : Int))) false false) s₁ = .next s₂ ∧
      exec (.emit f) s₂ = .next s₃ ∧
      Sys2Proof.core.run k₁ s₃ = .next t₁ ∧ t₁.delivered = [.session .ok] ∧
      emittedFrames t₁.waves = emittedFrames s.waves ++ (List.replicate N fs).flatten ∧
      t₁.clock = after s.clock (N * fs.length * 52250) ∧
      Sys2Proof.core.run k₂ t₁ = .next t₂ ∧ t₂.delivered = [.session .ok] ∧
      emittedFrames t₂.waves = emittedFrames t₁.waves ++ (List.replicate M gs).flatten ∧
      t₂.clock = after t₁.clock (M * gs.length * 52250) ∧
      Sys2Proof.core.run k₃ t₂ = .next t₃ ∧ t₃.delivered = [.emitReturned] ∧
      emittedFrames t₃.waves = emittedFrames t₂.waves ++ [f] ∧ t₃.clock = after t₂.clock 52250 ∧ agentIdle t₃

/-- No call overtakes another (20_memory.md section 6; the list of waiting calls is log entry 30). In a step the
waiting calls stay as they are, or one that is called now joins at the end, or the first leaves, and only when no
emission and no session is in progress, or RESET ends them all. -/
def Obligations.NoCallOvertakesAnother : Prop :=
  ∀ s t : State, step s = .next t →
    t.txCalls = s.txCalls ∨
    (∃ r rest c, s.script = .call r :: rest ∧ decode r = .ok (callInstr c) ∧ t.txCalls = s.txCalls ++ [c]) ∨
    (∃ c, s.txCalls = c :: t.txCalls ∧ s.tx.sym = 63#6 ∧ s.ses.phase = .idle) ∨
    (∃ r rest, s.script = .call r :: rest ∧ decode r = .ok .reset ∧ t.txCalls = [])
end

