-- ==== Sys2Proof/Laws/State.lean ====
section
/-!
SUPPORT. One lemma per field for each update of State that the meanings share, each true by definition.
-/

namespace Sys2Proof.Machine

open Sys2Proof

section
variable (s : State)

@[simp] theorem State.answer_tx (ds : List Delivery) (rs : List Reason) : (s.answer ds rs).tx = s.tx := rfl
@[simp] theorem State.answer_ses (ds : List Delivery) (rs : List Reason) : (s.answer ds rs).ses = s.ses := rfl
@[simp] theorem State.answer_txCalls (ds : List Delivery) (rs : List Reason) : (s.answer ds rs).txCalls = s.txCalls := rfl
@[simp] theorem State.answer_ka (ds : List Delivery) (rs : List Reason) : (s.answer ds rs).ka = s.ka := rfl
@[simp] theorem State.answer_rx (ds : List Delivery) (rs : List Reason) : (s.answer ds rs).rx = s.rx := rfl
@[simp] theorem State.answer_rxOthers (ds : List Delivery) (rs : List Reason) : (s.answer ds rs).rxOthers = s.rxOthers := rfl
@[simp] theorem State.answer_delivered (ds : List Delivery) (rs : List Reason) : (s.answer ds rs).delivered = ds := rfl
@[simp] theorem State.answer_clock (ds : List Delivery) (rs : List Reason) : (s.answer ds rs).clock = s.clock := rfl
@[simp] theorem State.answer_hostSeconds (ds : List Delivery) (rs : List Reason) : (s.answer ds rs).hostSeconds = s.hostSeconds := rfl
@[simp] theorem State.answer_cancel (ds : List Delivery) (rs : List Reason) : (s.answer ds rs).cancel = s.cancel := rfl
@[simp] theorem State.answer_draws (ds : List Delivery) (rs : List Reason) : (s.answer ds rs).draws = s.draws := rfl
@[simp] theorem State.answer_script (ds : List Delivery) (rs : List Reason) : (s.answer ds rs).script = s.script := rfl
@[simp] theorem State.answer_waves (ds : List Delivery) (rs : List Reason) : (s.answer ds rs).waves = s.waves := rfl
@[simp] theorem State.answer_reasons (ds : List Delivery) (rs : List Reason) : (s.answer ds rs).reasons = rs := rfl

@[simp] theorem State.show_tx (ws : List Wave) : (s.show ws).tx = s.tx := rfl
@[simp] theorem State.show_ses (ws : List Wave) : (s.show ws).ses = s.ses := rfl
@[simp] theorem State.show_txCalls (ws : List Wave) : (s.show ws).txCalls = s.txCalls := rfl
@[simp] theorem State.show_ka (ws : List Wave) : (s.show ws).ka = s.ka := rfl
@[simp] theorem State.show_rx (ws : List Wave) : (s.show ws).rx = s.rx := rfl
@[simp] theorem State.show_rxOthers (ws : List Wave) : (s.show ws).rxOthers = s.rxOthers := rfl
@[simp] theorem State.show_delivered (ws : List Wave) : (s.show ws).delivered = s.delivered := rfl
@[simp] theorem State.show_clock (ws : List Wave) : (s.show ws).clock = s.clock := rfl
@[simp] theorem State.show_hostSeconds (ws : List Wave) : (s.show ws).hostSeconds = s.hostSeconds := rfl
@[simp] theorem State.show_cancel (ws : List Wave) : (s.show ws).cancel = s.cancel := rfl
@[simp] theorem State.show_draws (ws : List Wave) : (s.show ws).draws = s.draws := rfl
@[simp] theorem State.show_script (ws : List Wave) : (s.show ws).script = s.script := rfl
@[simp] theorem State.show_waves (ws : List Wave) : (s.show ws).waves = s.waves ++ ws := rfl
@[simp] theorem State.show_reasons (ws : List Wave) : (s.show ws).reasons = s.reasons := rfl

@[simp] theorem State.clockTo_tx (m : Time) : (s.clockTo m).tx = s.tx := rfl
@[simp] theorem State.clockTo_ses (m : Time) : (s.clockTo m).ses = s.ses := rfl
@[simp] theorem State.clockTo_txCalls (m : Time) : (s.clockTo m).txCalls = s.txCalls := rfl
@[simp] theorem State.clockTo_ka (m : Time) : (s.clockTo m).ka = s.ka := rfl
@[simp] theorem State.clockTo_rx (m : Time) : (s.clockTo m).rx = s.rx := rfl
@[simp] theorem State.clockTo_rxOthers (m : Time) : (s.clockTo m).rxOthers = s.rxOthers := rfl
@[simp] theorem State.clockTo_delivered (m : Time) : (s.clockTo m).delivered = s.delivered := rfl
@[simp] theorem State.clockTo_clock (m : Time) : (s.clockTo m).clock = later s.clock m := rfl
@[simp] theorem State.clockTo_hostSeconds (m : Time) : (s.clockTo m).hostSeconds = s.hostSeconds := rfl
@[simp] theorem State.clockTo_cancel (m : Time) : (s.clockTo m).cancel = s.cancel := rfl
@[simp] theorem State.clockTo_draws (m : Time) : (s.clockTo m).draws = s.draws := rfl
@[simp] theorem State.clockTo_script (m : Time) : (s.clockTo m).script = s.script := rfl
@[simp] theorem State.clockTo_waves (m : Time) : (s.clockTo m).waves = s.waves := rfl
@[simp] theorem State.clockTo_reasons (m : Time) : (s.clockTo m).reasons = s.reasons := rfl

@[simp] theorem State.takeRx_tx (o : RxOut) : (s.takeRx o).tx = s.tx := rfl
@[simp] theorem State.takeRx_ses (o : RxOut) : (s.takeRx o).ses = s.ses := rfl
@[simp] theorem State.takeRx_txCalls (o : RxOut) : (s.takeRx o).txCalls = s.txCalls := rfl
@[simp] theorem State.takeRx_ka (o : RxOut) : (s.takeRx o).ka = s.ka := rfl
@[simp] theorem State.takeRx_rx (o : RxOut) : (s.takeRx o).rx = o.rx := rfl
@[simp] theorem State.takeRx_rxOthers (o : RxOut) : (s.takeRx o).rxOthers = s.rxOthers := rfl
@[simp] theorem State.takeRx_delivered (o : RxOut) : (s.takeRx o).delivered = [.rx o.result] := rfl
@[simp] theorem State.takeRx_clock (o : RxOut) : (s.takeRx o).clock = s.clock := rfl
@[simp] theorem State.takeRx_hostSeconds (o : RxOut) : (s.takeRx o).hostSeconds = s.hostSeconds := rfl
@[simp] theorem State.takeRx_cancel (o : RxOut) : (s.takeRx o).cancel = s.cancel := rfl
@[simp] theorem State.takeRx_draws (o : RxOut) : (s.takeRx o).draws = s.draws := rfl
@[simp] theorem State.takeRx_script (o : RxOut) : (s.takeRx o).script = s.script := rfl
@[simp] theorem State.takeRx_waves (o : RxOut) : (s.takeRx o).waves = s.waves := rfl
@[simp] theorem State.takeRx_reasons (o : RxOut) : (s.takeRx o).reasons = o.reason.toList := rfl

end

end Sys2Proof.Machine
end

