-- ==== Sys2Proof/Laws/Ops.lean ====
section
/-!
SUPPORT. Laws of the time operations and of the frame buffers.
-/

namespace Sys2Proof.Machine

open Sys2Proof

theorem reached_iff (now t : Time) : reached now t = true ↔ (now - t).toNat < 2 ^ 31 := by
  simp [reached]

@[simp] theorem reached_self (t : Time) : reached t t = true := by simp [reached]

/-- A time `d` ahead, less than half the clock's range, is not reached unless `d` is 0. -/
theorem reached_ahead (t d : Time) (h0 : d ≠ 0#32) (h : d.toNat ≤ 2 ^ 31) : reached t (t + d) = false := by
  have e : t - (t + d) = -d := by ring
  have hd : d.toNat ≠ 0 := fun c => h0 (BitVec.eq_of_toNat_eq (by simpa using c))
  simp only [reached, e, BitVec.toNat_neg, decide_eq_false_iff_not, Nat.not_lt]
  rw [Nat.mod_eq_of_lt (by omega)]
  omega

/-- A time `d` behind, less than half the clock's range, is reached. -/
theorem reached_behind (t d : Time) (h : d.toNat < 2 ^ 31) : reached (t + d) t = true := by
  rw [reached_iff, show t + d - t = d by ring]
  exact h

@[simp] theorem later_self (t : Time) : later t t = t := by simp [later]

theorem later_ahead (t d : Time) (h : d.toNat ≤ 2 ^ 31) : later t (t + d) = t + d := by
  by_cases h0 : d = 0#32
  · simp [h0]
  · simp [later, reached_ahead t d h0 h]

theorem later_behind (t d : Time) (h : d.toNat < 2 ^ 31) : later (t + d) t = t + d := by
  simp [later, reached_behind t d h]

/-- `F[i] <- b` writes bit `i` and no other (R10, R61). -/
theorem bitAt_setBit (f : Frame) (i k : Nat) (b : Bool) (hi : i < 40) :
    bitAt (setBit f i b) k = if k = i then b else bitAt f k := by
  unfold bitAt setBit
  by_cases hk : k < 40
  · cases b <;> simp [hk] <;> by_cases e : k = i <;> simp [e] <;> omega
  · have e : k ≠ i := by omega
    rw [BitVec.getLsbD_of_ge _ _ (by omega), BitVec.getLsbD_of_ge f _ (by omega)]
    simp [e]

/-- Reading back the byte just written (R10 `MemRead`, `MemWrite`). -/
theorem byteAt_setByte (f : Frame) (k : Nat) (v : BitVec 8) (hk : k < 5) : byteAt (setByte f k v) k = v := by
  apply BitVec.eq_of_getLsbD_eq
  intro i hi
  have h1 : 32 - 8 * k + i < 40 := by omega
  simp [byteAt, setByte, hi, h1]
  have h2 : ¬ (32 - 8 * k + i < 32 - 8 * k) := by omega
  have h3 : 32 - 8 * k + i - (32 - 8 * k) = i := by omega
  have h4 : (255#40).getLsbD i = true := by
    have : ∀ j : Fin 8, (255#40).getLsbD j.val = true := by decide
    exact this ⟨i, hi⟩
  simp [h4]

@[simp] theorem wireBits_length (f : Frame) : (wireBits f).length = 40 := by simp [wireBits]

/-- Wire position `n` is bit `39 - n` (R61). -/
theorem wireBits_get (f : Frame) (n : Nat) (h : n < (wireBits f).length) :
    (wireBits f)[n] = bitAt f (39 - n) := by simp [wireBits]

end Sys2Proof.Machine
end

