-- ==== Sys2Proof/Laws/Codec.lean ====
section
/-!
SUPPORT. Laws of PacketCodec: what ENCODE and DECODE can answer, and the bits of an assembled frame.
-/

namespace Sys2Proof.Machine

open Sys2Proof

/-- What ENCODE can answer: the sentinel, or the assembled frame of a channel's and a command's codes. -/
theorem packetEncode_cases (key : BitVec 16) (chan : BitVec 2) (cmd : BitVec 3) (power : BitVec 8) :
    (packetEncode key chan cmd power = (0#40, false) ∧ (channelCode chan = none ∨ modeCode cmd = none)) ∨
    ∃ c m, channelCode chan = some c ∧ modeCode cmd = some m ∧
      packetEncode key chan cmd power = (assemble c.1 m.1 key power m.2 c.2, true) := by
  unfold packetEncode
  rcases h : channelCode chan with _ | c <;> rcases h' : modeCode cmd with _ | m
  · exact .inl ⟨rfl, .inl rfl⟩
  · exact .inl ⟨rfl, .inl rfl⟩
  · exact .inl ⟨rfl, .inr rfl⟩
  · exact .inr ⟨c, m, rfl, rfl, rfl⟩

/-- The bits of an assembled frame, field by field (R80). -/
theorem assemble_getLsbD (chc : BitVec 3) (mode : BitVec 4) (key : BitVec 16) (power : BitVec 8)
    (modec : BitVec 4) (chcc : BitVec 3) (i : Nat) :
    (assemble chc mode key power modec chcc).getLsbD i =
      if i < 1 then false
      else if i < 4 then chcc.getLsbD (i - 1)
      else if i < 8 then modec.getLsbD (i - 4)
      else if i < 16 then power.getLsbD (i - 8)
      else if i < 32 then key.getLsbD (i - 16)
      else if i < 36 then mode.getLsbD (i - 32)
      else if i < 39 then chc.getLsbD (i - 36)
      else decide (i = 39) := by
  show BitVec.getLsbD (w := 1 + 3 + 4 + 16 + 8 + 4 + 3 + 1)
    (1#1 ++ chc ++ mode ++ key ++ power ++ modec ++ chcc ++ 0#1) i = _
  simp only [BitVec.getLsbD_append, Nat.sub_sub]
  split_ifs <;> first | rfl | omega | skip
  all_goals simp <;> omega

/-- The lead-in bit of an assembled frame is 1 (R80, R129). -/
@[simp] theorem leadIn_assemble (chc : BitVec 3) (mode : BitVec 4) (key : BitVec 16) (power : BitVec 8)
    (modec : BitVec 4) (chcc : BitVec 3) : leadIn (assemble chc mode key power modec chcc) = true := by
  rw [leadIn, bitAt, assemble_getLsbD]
  rfl

/-- ENCODE's `valid` is the lead-in bit of its frame (R40). -/
theorem packetEncode_valid (key : BitVec 16) (chan : BitVec 2) (cmd : BitVec 3) (power : BitVec 8) :
    (packetEncode key chan cmd power).2 = leadIn (packetEncode key chan cmd power).1 := by
  rcases packetEncode_cases key chan cmd power with ⟨h, -⟩ | ⟨c, m, -, -, h⟩
  · simp [h, leadIn, bitAt]
  · simp [h]

theorem channelOf_isChannel {a b : BitVec 4} {c : BitVec 2} (h : channelOf a b = some c) :
    c = 1#2 ∨ c = 2#2 := by
  unfold channelOf at h
  split at h
  · exact .inl (by simpa using h.symm)
  · split at h
    · exact .inr (by simpa using h.symm)
    · cases h

theorem commandOf_isCommand {a b : BitVec 4} {m : BitVec 3} (h : commandOf a b = some m) :
    1 ≤ m.toNat ∧ m.toNat ≤ 4 := by
  unfold commandOf at h
  split_ifs at h <;> (cases h; decide)

/-- What an accepting DECODE says of the frame and of the tuple (R130). -/
theorem packetDecode_ok {f : Frame} {filter : BitVec 16} {d : Tuple} (h : packetDecode f filter = .ok d) :
    (filter = 0#16 ∨ f.extractLsb' 16 16 = filter) ∧
    channelOf (f.extractLsb' 36 4) (f.extractLsb' 0 4) = some d.chan ∧
    commandOf (f.extractLsb' 32 4) (f.extractLsb' 4 4) = some d.cmd ∧
    d.key = f.extractLsb' 16 16 ∧ d.power = f.extractLsb' 8 8 := by
  unfold packetDecode at h
  split at h
  · cases h
  · rename_i hk
    split at h
    · cases h
    · rename_i chan hc
      split at h
      · cases h
      · rename_i cmd hm
        cases h
        refine ⟨?_, hc, hm, rfl, rfl⟩
        by_cases e : filter = 0#16
        · exact .inl e
        · exact .inr (by_contra fun c => hk ⟨e, c⟩)

/-- DECODE accepts what passes the three checks (R130). -/
theorem packetDecode_eq_ok {f : Frame} {filter : BitVec 16} {chan : BitVec 2} {cmd : BitVec 3}
    (hk : filter = 0#16 ∨ f.extractLsb' 16 16 = filter)
    (hc : channelOf (f.extractLsb' 36 4) (f.extractLsb' 0 4) = some chan)
    (hm : commandOf (f.extractLsb' 32 4) (f.extractLsb' 4 4) = some cmd) :
    packetDecode f filter = .ok ⟨f.extractLsb' 16 16, chan, cmd, f.extractLsb' 8 8⟩ := by
  have hn : ¬ (filter ≠ Config.keyAny ∧ f.extractLsb' 16 16 ≠ filter) := by
    rintro ⟨h1, h2⟩
    exact hk.elim h1 h2
  simp only [packetDecode, if_neg hn, hc, hm]

/-- A tuple DECODE returns is decodable (R135). -/
theorem packetDecode_decodable {f : Frame} {filter : BitVec 16} {d : Tuple}
    (h : packetDecode f filter = .ok d) : d.decodable = true := by
  obtain ⟨-, hc, hm, -, -⟩ := packetDecode_ok h
  obtain ⟨h1, h2⟩ := commandOf_isCommand hm
  rcases channelOf_isChannel hc with e | e <;> simp [Tuple.decodable, e, h1, h2]

end Sys2Proof.Machine
end

