-- ==== Sys2Proof/Laws/Transmit.lean ====
section
/-!
SUPPORT. Laws of the transmitter: its times without and with draws, and what one transition can do.
-/

namespace Sys2Proof.Machine

open Sys2Proof

/-- `tx_busy` (R27). -/
theorem busy_iff (tx : TxGroup) : tx.busy = true ↔ tx.sym ≠ 63#6 := by simp [TxGroup.busy, Config.txIdle]

theorem busy_eq_false (tx : TxGroup) : tx.busy = false ↔ tx.sym = 63#6 := by simp [TxGroup.busy, Config.txIdle]

@[simp] theorem nextDraw_nil : nextDraw [] = (0#32, Config.txOverhead) := rfl
@[simp] theorem nextDraw_cons (j o : Time) (ds : List (Time × Time)) : nextDraw ((j, o) :: ds) = (j, o) := rfl

/-- With no draws a pulse rises at the later of its deadline and the last fall (R154, R156). -/
@[simp] theorem riseTime_nominal (tx : TxGroup) : riseTime tx [] = later tx.deadline tx.fallAt := by
  simp [riseTime]

/-- And is on for its symbol's on-duration (R154). -/
@[simp] theorem fallTime_nominal (tx : TxGroup) :
    fallTime tx [] = later tx.deadline tx.fallAt + tx.symbol.on := by
  simp only [fallTime, riseTime_nominal, nextDraw_nil]
  ring

/-- Every bit symbol lasts 1000 us, START 2250 us (R90). -/
theorem symbolAt_total (f : Frame) (k : Nat) :
    (symbolAt f k).on + (symbolAt f k).off = if k = 0 then 2250#32 else 1000#32 := by
  unfold symbolAt Symbol.ofBit
  split
  · rfl
  · split
    · cases bitAt f (40 - k) <;> rfl
    · rfl

/-- What one transition of the transmitter can be (R162). -/
theorem txTurn_cases (s : State) :
    (s.tx.out = true ∧ txTurn s = (txFall s).answer [] []) ∨
    (s.tx.out = false ∧ s.tx.sym.toNat < 42 ∧ txTurn s = (txRise s).answer [] []) ∨
    (s.tx.out = false ∧ s.tx.sym = 42#6 ∧ s.tx.gap = false ∧ txTurn s = (txGapStart s).answer [] []) ∨
    (s.tx.out = false ∧ s.tx.sym = 42#6 ∧ s.tx.gap = true ∧
      txTurn s = (txReturn s).answer (if s.tx.byHost then [.emitReturned] else []) []) ∨
    (s.tx.out = false ∧ 42 < s.tx.sym.toNat ∧ txTurn s = s.answer [] []) := by
  unfold txTurn
  by_cases ho : s.tx.out = true
  · exact .inl ⟨ho, if_pos ho⟩
  rw [if_neg ho]
  have ho' : s.tx.out = false := by simpa using ho
  by_cases hs : s.tx.sym.toNat < 42
  · exact .inr (.inl ⟨ho', hs, if_pos hs⟩)
  rw [if_neg hs]
  by_cases h42 : s.tx.sym = 42#6
  · rw [if_pos h42]
    by_cases hg : s.tx.gap = true
    · exact .inr (.inr (.inr (.inl ⟨ho', h42, hg, if_pos hg⟩)))
    · exact .inr (.inr (.inl ⟨ho', h42, by simpa using hg, if_neg hg⟩))
  · have : s.tx.sym.toNat ≠ 42 := fun c => h42 (BitVec.eq_of_toNat_eq (by simpa using c))
    exact .inr (.inr (.inr (.inr ⟨ho', by omega, if_neg h42⟩)))

/-- What EMIT does when it takes effect (R150, R151). -/
theorem beginEmit_cases (f : Frame) (s : State) :
    (leadIn f = true ∧ beginEmit f s = (startEmission true f s).answer [] []) ∨
    (leadIn f = false ∧ beginEmit f s = s.answer [.emitReturned] [.sentinelFrame]) := by
  unfold beginEmit
  cases leadIn f <;> simp

end Sys2Proof.Machine
end

