-- ==== Sys2Proof/Laws/Session.lean ====
section
/-!
SUPPORT. Laws of the session loop, and what its transitions and those of the transmitter leave alone.
-/

namespace Sys2Proof.Machine

open Sys2Proof

/-- The frames of a session are all fit to be sent (R172, R151). -/
theorem encodeChannels_leadIn {key : BitVec 16} {cmd : BitVec 3} {power : BitVec 8} {chs : List (BitVec 2)}
    {fs : List Frame} (h : encodeChannels key cmd power chs = some fs) :
    fs.length = chs.length ∧ ∀ f ∈ fs, leadIn f = true := by
  induction chs generalizing fs with
  | nil =>
    simp only [encodeChannels, Option.some.injEq] at h
    subst h
    simp
  | cons ch chs ih =>
    simp only [encodeChannels] at h
    split at h
    · rename_i f gs hf hgs
      cases h
      obtain ⟨hl, hg⟩ := ih hgs
      refine ⟨by simp [hl], ?_⟩
      intro g hmem
      rcases List.mem_cons.mp hmem with rfl | hmem
      · have := packetEncode_valid key ch cmd power
        rw [hf] at this
        exact this.symm
      · exact hg g hmem
    · cases h

/-- What a request for a session comes to (R170, R172). -/
theorem startSession_cases (cmd : BitVec 3) (sel : BitVec 2) (power : BitVec 8) (budget : BitVec 32)
    (ce k : Bool) (s : State) :
    (∃ r, startSession cmd sel power budget ce k s = refuseSession r s) ∨
    (∃ f fs, encodeChannels s.tx.key cmd power (selected sel) = some (f :: fs) ∧
      startSession cmd sel power budget ce k s = (beginSession f fs budget ce k s).answer [] []) := by
  unfold startSession
  split
  · exact .inl ⟨_, rfl⟩
  · exact .inl ⟨_, rfl⟩
  · rename_i f fs h
    exact .inr ⟨f, fs, h, rfl⟩

/-- At most two channels can be selected (R96). -/
theorem selected_length (sel : BitVec 2) : (selected sel).length ≤ 2 := by
  unfold selected
  cases sel.getLsbD 0 <;> cases sel.getLsbD 1 <;> simp

/-- What the check of the loop comes to (R173): the end, or the round. -/
theorem sessionCheck_cases (s : State) :
    ∃ p : State, (p = s ∨ p = s.show [.polled s.cancel s.clock]) ∧
      ((∃ r, sessionCheck s = endSession r p) ∨
       sessionCheck s = ({ p with ses := { s.ses with phase := .round 0 } }).answer [] []) := by
  unfold sessionCheck
  cases hc : s.ses.cancelEn
  · refine ⟨s, .inl rfl, ?_⟩
    simp only [Bool.false_eq_true, if_false, Bool.false_and]
    split
    · exact .inl ⟨_, rfl⟩
    · exact .inr rfl
  · refine ⟨s.show [.polled s.cancel s.clock], .inr rfl, ?_⟩
    simp only [if_true, Bool.true_and]
    split
    · exact .inl ⟨_, rfl⟩
    · split
      · exact .inl ⟨_, rfl⟩
      · exact .inr rfl

/-- What the transmit agent's transitions leave alone: receive instances, configuration, the environment. -/
structure KeptByAgent (s t : State) : Prop where
  rx : t.rx = s.rx
  rxOthers : t.rxOthers = s.rxOthers
  key : t.tx.key = s.tx.key
  mask : t.ka.mask = s.ka.mask
  hostSeconds : t.hostSeconds = s.hostSeconds
  cancel : t.cancel = s.cancel
  script : t.script = s.script

theorem txTurn_kept (s : State) : KeptByAgent s (txTurn s) := by
  rcases txTurn_cases s with ⟨-, h⟩ | ⟨-, -, h⟩ | ⟨-, -, -, h⟩ | ⟨-, -, -, h⟩ | ⟨-, -, h⟩ <;> rw [h] <;>
    constructor <;> simp [txFall, txRise, txGapStart, txReturn]

theorem endSession_kept (r : SesResult) (s : State) : KeptByAgent s (endSession r s) := by
  refine ⟨rfl, rfl, rfl, ?_, rfl, rfl, rfl⟩
  simp only [endSession]
  split <;> rfl

theorem sessionTurn_kept (s : State) : KeptByAgent s (sessionTurn s) := by
  unfold sessionTurn
  split
  · exact ⟨rfl, rfl, rfl, rfl, rfl, rfl, rfl⟩
  · obtain ⟨p, hp, ⟨r, h⟩ | h⟩ := sessionCheck_cases s
    · have := endSession_kept r p
      rw [h]
      rcases hp with rfl | rfl
      · exact this
      · exact ⟨this.1, this.2, this.3, this.4, this.5, this.6, this.7⟩
    · rw [h]
      rcases hp with rfl | rfl <;> exact ⟨rfl, rfl, rfl, rfl, rfl, rfl, rfl⟩
  · unfold sessionRound
    split <;> exact ⟨rfl, rfl, rfl, rfl, rfl, rfl, rfl⟩

theorem txTurn_script (s : State) (x : List Turn) :
    txTurn { s with script := x } = { txTurn s with script := x } := by
  by_cases h1 : s.tx.out = true <;> by_cases h2 : s.tx.sym.toNat < symbolCount <;>
    by_cases h3 : s.tx.sym = BitVec.ofNat 6 symbolCount <;> by_cases h4 : s.tx.gap = true <;>
    simp only [txTurn, h1, h2, h3, h4, if_true, if_false] <;> rfl

theorem sessionTurn_script (s : State) (x : List Turn) :
    sessionTurn { s with script := x } = { sessionTurn s with script := x } := by
  cases hp : s.ses.phase with
  | idle => simp only [sessionTurn, hp]; rfl
  | check =>
    simp only [sessionTurn, hp, sessionCheck]
    by_cases h1 : s.ses.cancelEn = true <;> by_cases h2 : s.cancel = true <;>
      by_cases h3 : budgetReached Config.budgetUnitUs s.ses s.clock = true <;>
      simp [h1, h2, h3, endSession, State.show, State.answer]
  | round i =>
    by_cases hi : i < s.ses.n.toNat
    · simp only [sessionTurn, hp, sessionRound, hi, if_true]; rfl
    · simp only [sessionTurn, hp, sessionRound, hi]; rfl

theorem sessionTurn_clock (s : State) : (sessionTurn s).clock = s.clock := by
  cases hp : s.ses.phase with
  | idle => simp only [sessionTurn, hp]; rfl
  | check =>
    simp only [sessionTurn, hp]
    obtain ⟨p, hp, ⟨r, h⟩ | h⟩ := sessionCheck_cases s <;> rw [h] <;> rcases hp with rfl | rfl <;> rfl
  | round i =>
    by_cases hi : i < s.ses.n.toNat <;> simp [sessionTurn, hp, sessionRound, hi, startEmission]

end Sys2Proof.Machine
end

