-- ==== Sys2Proof/Laws/Agent.lean ====
section
/-!
SUPPORT. Laws of the transmit agent: what a call of it and a transition of it can be, and what they leave alone.
-/

namespace Sys2Proof.Machine

open Sys2Proof

@[simp] theorem execEmit_eq (f : Frame) (s : State) : execEmit f s = callTransmit (.emit f) s := rfl
@[simp] theorem execSessionRun_eq (cmd : BitVec 3) (sel : BitVec 2) (power : BitVec 8) (budget : BitVec 32)
    (ce c : Bool) (s : State) :
    execSessionRun cmd sel power budget ce c s = callTransmit (.session cmd sel power budget ce c) s := rfl
@[simp] theorem execKeepaliveTick_eq (s : State) : execKeepaliveTick s = callTransmit .keepalive s := rfl

/-- No operation is unfinished: no session runs and no call waits. -/
theorem callsUnfinished_eq_false (s : State) :
    s.callsUnfinished = false ↔ s.ses.phase = .idle ∧ s.txCalls = [] := by
  simp [State.callsUnfinished, SesGroup.running]

theorem callsUnfinished_iff (s : State) :
    s.callsUnfinished = true ↔ s.ses.phase ≠ .idle ∨ s.txCalls ≠ [] := by
  simp [State.callsUnfinished, SesGroup.running]

/-- What a call of the transmit agent comes to (R158, R246, R68 (1)). -/
theorem callTransmit_cases (c : TxCall) (s : State) :
    (s.tx.busy = true ∧ callTransmit c s = .next (s.answer [] [])) ∨
    (s.tx.busy = false ∧ s.callsUnfinished = true ∧
      callTransmit c s = .next (({ s with txCalls := s.txCalls ++ [c] }).answer [] [])) ∨
    (s.tx.busy = false ∧ s.callsUnfinished = false ∧ callTransmit c s = .next (beginCall c s)) := by
  unfold callTransmit
  cases s.tx.busy <;> cases s.callsUnfinished <;> simp

/-- What KEEPALIVE_TICK does when it takes effect (R178). -/
theorem beginKeepalive_cases (s : State) :
    (keepaliveDue s = true ∧ beginKeepalive s = startSession 1#3 s.ka.mask Config.keepalivePower
      (BitVec.ofInt 32 (-(Config.keepaliveRepeats : Int))) false true s) ∨
    (keepaliveDue s = false ∧ beginKeepalive s = s.answer [] []) := by
  unfold beginKeepalive
  cases keepaliveDue s <;> simp

/-- What the beginning of a call leaves alone; the cancel port takes the level the session's call gave (log entry 4). -/
structure KeptByCall (s t : State) : Prop where
  rx : t.rx = s.rx
  rxOthers : t.rxOthers = s.rxOthers
  key : t.tx.key = s.tx.key
  ka : t.ka = s.ka
  txCalls : t.txCalls = s.txCalls
  clock : t.clock = s.clock
  hostSeconds : t.hostSeconds = s.hostSeconds
  draws : t.draws = s.draws
  script : t.script = s.script

theorem startSession_kept (cmd : BitVec 3) (sel : BitVec 2) (power : BitVec 8) (budget : BitVec 32) (ce k : Bool)
    (s : State) : KeptByCall s (startSession cmd sel power budget ce k s) := by
  rcases startSession_cases cmd sel power budget ce k s with ⟨r, h⟩ | ⟨f, fs, -, h⟩ <;> rw [h] <;>
    exact ⟨rfl, rfl, rfl, rfl, rfl, rfl, rfl, rfl, rfl⟩

/-- The beginning of any call. -/
theorem beginCall_kept (c : TxCall) (s : State) : KeptByCall s (beginCall c s) := by
  cases c with
  | emit f =>
    rcases beginEmit_cases f s with ⟨-, h⟩ | ⟨-, h⟩ <;> rw [beginCall, h] <;>
      exact ⟨rfl, rfl, rfl, rfl, rfl, rfl, rfl, rfl, rfl⟩
  | session cmd sel power budget ce c =>
    have h := startSession_kept cmd sel power budget ce false { s with cancel := c }
    exact ⟨h.1, h.2, h.3, h.4, h.5, h.6, h.7, h.8, h.9⟩
  | keepalive =>
    rcases beginKeepalive_cases s with ⟨-, h⟩ | ⟨-, h⟩ <;> rw [beginCall, h]
    · exact startSession_kept ..
    · exact ⟨rfl, rfl, rfl, rfl, rfl, rfl, rfl, rfl, rfl⟩

theorem nextCall_nil {s : State} (h : s.txCalls = []) : nextCall s = s.answer [] [] := by
  unfold nextCall
  rw [h]

/-- The first call that waits begins, and the others wait on. -/
theorem nextCall_cons {s : State} {c : TxCall} {cs : List TxCall} (h : s.txCalls = c :: cs) :
    nextCall s = beginCall c { s with txCalls := cs } := by
  unfold nextCall
  rw [h]

/-- What the transmit agent's next transition can be: the emission's, the session's, or the next call's beginning. -/
theorem agentTurn_cases (m : Time) (s : State) :
    (s.tx.busy = true ∧ agentTurn m s = txTurn (s.clockTo m)) ∨
    (s.tx.busy = false ∧ s.ses.phase ≠ .idle ∧ agentTurn m s = sessionTurn s) ∨
    (s.tx.busy = false ∧ s.ses.phase = .idle ∧ s.txCalls = [] ∧ agentTurn m s = s.answer [] []) ∨
    (∃ c cs, s.tx.busy = false ∧ s.ses.phase = .idle ∧ s.txCalls = c :: cs ∧
      agentTurn m s = beginCall c { s with txCalls := cs }) := by
  unfold agentTurn SesGroup.running nextCall
  cases hb : s.tx.busy
  · by_cases hp : s.ses.phase = .idle
    · cases hc : s.txCalls <;> simp [hp]
    · simp [hp]
  · simp

/-- What the transmit agent's transitions leave alone: receive instances, configuration, the environment's turns. -/
structure KeptByTurn (s t : State) : Prop where
  rx : t.rx = s.rx
  rxOthers : t.rxOthers = s.rxOthers
  key : t.tx.key = s.tx.key
  mask : t.ka.mask = s.ka.mask
  hostSeconds : t.hostSeconds = s.hostSeconds
  script : t.script = s.script

/-- Every transition of the transmit agent (R11, R20). -/
theorem agentTurn_kept (m : Time) (s : State) : KeptByTurn s (agentTurn m s) := by
  rcases agentTurn_cases m s with ⟨-, h⟩ | ⟨-, -, h⟩ | ⟨-, -, -, h⟩ | ⟨c, cs, -, -, -, h⟩ <;> rw [h]
  · have := txTurn_kept (s.clockTo m)
    exact ⟨this.1, this.2, this.3, this.4, this.5, this.7⟩
  · have := sessionTurn_kept s
    exact ⟨this.1, this.2, this.3, this.4, this.5, this.7⟩
  · exact ⟨rfl, rfl, rfl, rfl, rfl, rfl⟩
  · have := beginCall_kept c { s with txCalls := cs }
    exact ⟨this.1, this.2, this.3, congrArg KaGroup.mask this.4, this.7, this.9⟩

theorem startSession_script (cmd : BitVec 3) (sel : BitVec 2) (power : BitVec 8) (budget : BitVec 32) (ce k : Bool)
    (s : State) (x : List Turn) :
    startSession cmd sel power budget ce k { s with script := x } =
      { startSession cmd sel power budget ce k s with script := x } := by
  unfold startSession
  rcases encodeChannels s.tx.key cmd power (selected sel) with _ | _ | ⟨f, fs⟩ <;> rfl

/-- Nor does the beginning of a call read the script. -/
theorem beginCall_script (c : TxCall) (s : State) (x : List Turn) :
    beginCall c { s with script := x } = { beginCall c s with script := x } := by
  cases c with
  | emit f => cases h : leadIn f <;> simp only [beginCall, beginEmit, h, if_true] <;> rfl
  | session cmd sel power budget ce c => exact startSession_script cmd sel power budget ce false { s with cancel := c } x
  | keepalive =>
    have hd : keepaliveDue { s with script := x } = keepaliveDue s := rfl
    cases h : keepaliveDue s
    · simp only [beginCall, beginKeepalive, hd, h]; rfl
    · simp only [beginCall, beginKeepalive, hd, h, if_true]
      exact startSession_script _ _ _ _ _ _ s x

theorem nextCall_script (s : State) (x : List Turn) :
    nextCall { s with script := x } = { nextCall s with script := x } := by
  obtain hc | ⟨c, cs, hc⟩ : s.txCalls = [] ∨ ∃ c cs, s.txCalls = c :: cs := by cases s.txCalls <;> simp
  · rw [nextCall_nil hc, nextCall_nil (s := { s with script := x }) hc]
    rfl
  · rw [nextCall_cons hc, nextCall_cons (s := { s with script := x }) hc]
    exact beginCall_script c { s with txCalls := cs } x

/-- A transition does not read the script. -/
theorem agentTurn_script (m : Time) (s : State) (x : List Turn) :
    agentTurn m { s with script := x } = { agentTurn m s with script := x } := by
  by_cases hb : s.tx.busy = true
  · simp only [agentTurn, hb, if_true]
    exact txTurn_script (s.clockTo m) x
  · by_cases hr : s.ses.running = true
    · simp only [agentTurn, hb, hr, if_true]
      exact sessionTurn_script s x
    · simp only [agentTurn, hb, hr, Bool.false_eq_true, if_false]
      exact nextCall_script s x

/-- When the agent has a transition, and when. -/
theorem agentMoment_cases (s : State) :
    (s.tx.busy = true ∧ agentMoment s = some (txMoment s.tx s.draws)) ∨
    (s.tx.busy = false ∧ s.callsUnfinished = true ∧ agentMoment s = some s.clock) ∨
    (s.tx.busy = false ∧ s.callsUnfinished = false ∧ agentMoment s = none) := by
  unfold agentMoment
  cases s.tx.busy <;> cases s.callsUnfinished <;> simp

/-- A transition at its own time leaves the clock there, unless it had reached that time before (log entry 2). -/
theorem agentTurn_clock {m : Time} {s : State} (h : agentMoment s = some m) :
    (agentTurn m s).clock = later s.clock m := by
  rcases agentMoment_cases s with ⟨hb, -⟩ | ⟨hb, -, e⟩ | ⟨-, -, e⟩
  · rw [agentTurn, if_pos hb]
    rcases txTurn_cases (s.clockTo m) with ⟨-, e⟩ | ⟨-, -, e⟩ | ⟨-, -, -, e⟩ | ⟨-, -, -, e⟩ | ⟨-, -, e⟩ <;>
      rw [e] <;> simp [txFall, txRise, txGapStart, txReturn]
  · obtain rfl : s.clock = m := by simpa [e] using h
    rw [later_self]
    rcases agentTurn_cases s.clock s with ⟨hb', -⟩ | ⟨-, -, e⟩ | ⟨-, -, -, e⟩ | ⟨c, cs, -, -, -, e⟩
    · simp [hb] at hb'
    · rw [e, sessionTurn_clock]
    · rw [e]; rfl
    · rw [e, (beginCall_kept c _).clock]
  · simp [e] at h

end Sys2Proof.Machine
end

