-- ==== Sys2Proof/Laws/PerInstr.lean ====
section
/-!
SUPPORT. Per-instruction laws. EncodesAsTable: what the encoder writes for an instruction has the format of its
row in spec/opcode_table.json, and that row's fixed bits.
-/

namespace Sys2Proof.Laws

open Sys2Proof

/-- A request has the form of a FRAME40 row: the fixed bits under the mask of R93. -/
def IsFrame (pat : Frame) (r : Request) : Prop := ∃ f, r = .frame f ∧ f &&& 0xFF000000FF#40 = pat

/-- A request has the form of an OP row: the strobe of that operation (R105). -/
def IsOp (o : OpName) (r : Request) : Prop := ∃ x, r = .op o x

/-- Key and power stand outside the mask of R93. -/
theorem frameWord_masked (pat : Frame) (hp : pat &&& 0xFF000000FF#40 = pat) (key : BitVec 16) (power : BitVec 8) :
    IsFrame pat (.frame (frameWord pat key power)) := by
  refine ⟨_, rfl, ?_⟩
  apply BitVec.eq_of_getLsbD_eq
  intro i hi
  have hm : ∀ i < 40, (0xFF000000FF#40).getLsbD i = (decide (i < 8) || decide (32 ≤ i)) := by decide
  have hb := congrArg (fun v => BitVec.getLsbD v i) hp
  simp only [BitVec.getLsbD_and, hm i hi] at hb
  simp only [frameWord, BitVec.getLsbD_and, BitVec.getLsbD_or, BitVec.getLsbD_shiftLeft, BitVec.getLsbD_setWidth,
    hm i hi]
  by_cases h1 : i < 8
  · simp [h1, show i < 16 by omega]
  · by_cases h2 : 32 ≤ i
    · rw [BitVec.getLsbD_of_ge key (i - 16) (by omega), BitVec.getLsbD_of_ge power (i - 8) (by omega)]
      simp [h2]
    · simp only [h1, h2, decide_false, Bool.or_self, Bool.and_false] at hb ⊢
      exact hb

namespace EncodesAsTable

/-- The row of an instruction, as what its encoding looks like. -/
def Statement : Instr → Prop
  | .led1 key power => IsFrame 0x88000000EE#40 (encode (.led1 key power))
  | .beep1 key power => IsFrame 0x84000000DE#40 (encode (.beep1 key power))
  | .vibrate1 key power => IsFrame 0x82000000BE#40 (encode (.vibrate1 key power))
  | .zap1 key power => IsFrame 0x810000007E#40 (encode (.zap1 key power))
  | .led2 key power => IsFrame 0xF8000000E0#40 (encode (.led2 key power))
  | .beep2 key power => IsFrame 0xF4000000D0#40 (encode (.beep2 key power))
  | .vibrate2 key power => IsFrame 0xF2000000B0#40 (encode (.vibrate2 key power))
  | .zap2 key power => IsFrame 0xF100000070#40 (encode (.zap2 key power))
  | .start => encode .start = .slots [true, true, true, true, true, true, false, false, false]
  | .one => encode .one = .slots [true, true, true, false]
  | .zero => encode .zero = .slots [true, false, false, false]
  | .encode key chan cmd power => IsOp .encode (encode (.encode key chan cmd power))
  | .decode frame filter => IsOp .decode (encode (.decode frame filter))
  | .emit frame => IsOp .emit (encode (.emit frame))
  | .sessionRun cmd sel power budget cancelEn cancel =>
    IsOp .sessionRun (encode (.sessionRun cmd sel power budget cancelEn cancel))
  | .keepaliveTick => IsOp .keepaliveTick (encode .keepaliveTick)
  | .rxSample level t => IsOp .rxSample (encode (.rxSample level t))
  | .rxRise t => IsOp .rxRise (encode (.rxRise t))
  | .rxFall t => IsOp .rxFall (encode (.rxFall t))
  | .classify w => IsOp .classify (encode (.classify w))
  | .rxStart t => IsOp .rxStart (encode (.rxStart t))
  | .rxBit b t => IsOp .rxBit (encode (.rxBit b t))
  | .rxComplete t => IsOp .rxComplete (encode (.rxComplete t))
  | .rxReport d t => IsOp .rxReport (encode (.rxReport d t))
  | .reset => IsOp .reset (encode .reset)
  | .cfgWrite no value => IsOp .cfgWrite (encode (.cfgWrite no value))

theorem led1 (key : BitVec 16) (power : BitVec 8) : Statement (.led1 key power) :=
  frameWord_masked 0x88000000EE#40 (by decide) key power
theorem beep1 (key : BitVec 16) (power : BitVec 8) : Statement (.beep1 key power) :=
  frameWord_masked 0x84000000DE#40 (by decide) key power
theorem vibrate1 (key : BitVec 16) (power : BitVec 8) : Statement (.vibrate1 key power) :=
  frameWord_masked 0x82000000BE#40 (by decide) key power
theorem zap1 (key : BitVec 16) (power : BitVec 8) : Statement (.zap1 key power) :=
  frameWord_masked 0x810000007E#40 (by decide) key power
theorem led2 (key : BitVec 16) (power : BitVec 8) : Statement (.led2 key power) :=
  frameWord_masked 0xF8000000E0#40 (by decide) key power
theorem beep2 (key : BitVec 16) (power : BitVec 8) : Statement (.beep2 key power) :=
  frameWord_masked 0xF4000000D0#40 (by decide) key power
theorem vibrate2 (key : BitVec 16) (power : BitVec 8) : Statement (.vibrate2 key power) :=
  frameWord_masked 0xF2000000B0#40 (by decide) key power
theorem zap2 (key : BitVec 16) (power : BitVec 8) : Statement (.zap2 key power) :=
  frameWord_masked 0xF100000070#40 (by decide) key power
theorem start : Statement .start := rfl
theorem one : Statement .one := rfl
theorem zero : Statement .zero := rfl
theorem encode (key : BitVec 16) (chan : BitVec 2) (cmd : BitVec 3) (power : BitVec 8) :
    Statement (.encode key chan cmd power) := ⟨_, rfl⟩
theorem decode (frame : Frame) (filter : BitVec 16) : Statement (.decode frame filter) := ⟨_, rfl⟩
theorem emit (frame : Frame) : Statement (.emit frame) := ⟨_, rfl⟩
theorem sessionRun (cmd : BitVec 3) (sel : BitVec 2) (power : BitVec 8) (budget : BitVec 32) (cancelEn cancel : Bool) :
    Statement (.sessionRun cmd sel power budget cancelEn cancel) := ⟨_, rfl⟩
theorem keepaliveTick : Statement .keepaliveTick := ⟨_, rfl⟩
theorem rxSample (level : Bool) (t : Time) : Statement (.rxSample level t) := ⟨_, rfl⟩
theorem rxRise (t : Time) : Statement (.rxRise t) := ⟨_, rfl⟩
theorem rxFall (t : Time) : Statement (.rxFall t) := ⟨_, rfl⟩
theorem classify (w : Time) : Statement (.classify w) := ⟨_, rfl⟩
theorem rxStart (t : Time) : Statement (.rxStart t) := ⟨_, rfl⟩
theorem rxBit (b : Bool) (t : Time) : Statement (.rxBit b t) := ⟨_, rfl⟩
theorem rxComplete (t : Time) : Statement (.rxComplete t) := ⟨_, rfl⟩
theorem rxReport (d : Tuple) (t : Time) : Statement (.rxReport d t) := ⟨_, rfl⟩
theorem reset : Statement .reset := ⟨_, rfl⟩
theorem cfgWrite (no : Nat) (value : BitVec 16) : Statement (.cfgWrite no value) := ⟨_, rfl⟩

end EncodesAsTable

end Sys2Proof.Laws
end

