-- ==== Sys2Proof/Laws/Receive.lean ====
section
/-!
SUPPORT. Laws of the receiver: what each step of it can do, said once, and runs of samples.
-/

namespace Sys2Proof.Machine

open Sys2Proof

/-- RX_REPORT: a repeat writes the end time only, anything else stores the tuple (R199). -/
theorem rxReport_cases (d : Tuple) (t : Time) (rx : RxGroup) :
    (rxReport d t rx = ⟨{ rx with tEnd := t }, .repeated, none⟩ ∧ rx.lastValid = true ∧
      (rx.tStart - rx.tEnd).toNat < 120000 ∧ d = rx.last) ∨
    (rxReport d t rx = ⟨{ rx with last := d, lastValid := true, tEnd := t }, .new, none⟩ ∧
      ¬ (rx.lastValid = true ∧ (rx.tStart - rx.tEnd).toNat < 120000 ∧ d = rx.last)) := by
  unfold rxReport
  split
  · exact .inl ⟨rfl, ‹_›⟩
  · exact .inr ⟨rfl, ‹_›⟩

/-- RX_COMPLETE: a discard that changes nothing, or the report of the decoded tuple (R196). -/
theorem rxComplete_cases (t : Time) (rx : RxGroup) :
    (∃ r, rxComplete t rx = discard r rx) ∨
    (∃ d, packetDecode rx.buf rx.keyFilter = .ok d ∧ 37000 ≤ (t - rx.tStart).toNat ∧
      (t - rx.tStart).toNat ≤ 42000 ∧ rxComplete t rx = rxReport d t rx) := by
  unfold rxComplete
  split
  · exact .inl ⟨_, rfl⟩
  · rename_i h
    simp only [Config.durMin, Config.durMax] at h
    split
    · exact .inl ⟨_, rfl⟩
    · rename_i d hd
      exact .inr ⟨d, hd, by omega, by omega, rfl⟩

/-- RX_BIT: ignored, appended, or appended as the 40th bit and completed (R195). -/
theorem rxBit_cases (b : Bool) (t : Time) (rx : RxGroup) :
    (40 ≤ rx.count.toNat ∧ rxBit b t rx = discard .strayBit rx) ∨
    (rx.count.toNat < 39 ∧ rxBit b t rx = quietly (appendBit b rx)) ∨
    (rx.count.toNat = 39 ∧ rxBit b t rx = rxComplete t (appendBit b rx)) := by
  unfold rxBit
  split
  · exact .inl ⟨‹_›, rfl⟩
  · rename_i h
    simp only [Config.frameBits] at h
    have e : (appendBit b rx).count.toNat = rx.count.toNat + 1 := by
      simp only [appendBit, BitVec.toNat_add, BitVec.toNat_ofNat]
      omega
    split
    · rename_i hc
      rw [hc] at e
      exact .inr (.inr ⟨by simpa using e.symm, rfl⟩)
    · rename_i hc
      refine .inr (.inl ⟨?_, rfl⟩)
      simp only [Config.frameBits] at hc
      have : (appendBit b rx).count.toNat ≠ 40 := fun c => hc (BitVec.eq_of_toNat_eq (by simpa using c))
      omega

/-- RX_START, in every state (R194). -/
theorem rxStart_eq (t : Time) (rx : RxGroup) :
    (rxStart t rx).rx = { rx with buf := 0#40, count := 0#6, tStart := t } ∧ (rxStart t rx).result = .none := by
  unfold rxStart
  split <;> exact ⟨rfl, rfl⟩

/-- A partial frame of 1 to 39 bits is lost by a start marker (R194, R231). -/
theorem rxStart_reason (t : Time) (rx : RxGroup) :
    (rxStart t rx).reason = if 1 ≤ rx.count.toNat ∧ rx.count.toNat ≤ 39 then some .truncatedFrame else none := by
  unfold rxStart
  simp only [Config.frameBits, Nat.lt_succ_iff]
  split <;> rfl

/-- RX_FALL: noise, a start marker or a bit (R192). -/
theorem rxFall_cases (t : Time) (rx : RxGroup) :
    rxFall t rx = discard .noiseWidth rx ∨ rxFall t rx = rxStart t rx ∨
    ∃ b, rxFall t rx = rxBit b t rx := by
  unfold rxFall
  split
  · exact .inl rfl
  · exact .inr (.inl rfl)
  · exact .inr (.inr ⟨_, rfl⟩)

/-- RX_SAMPLE: nothing, a rise, or a fall (R190). -/
theorem rxSample_cases (level : Bool) (t : Time) (rx : RxGroup) :
    (level = rx.lastLevel ∧ rxSample level t rx = quietly rx) ∨
    (level = true ∧ rx.lastLevel = false ∧
      rxSample level t rx = quietly { rx with lastLevel := true, tRise := t }) ∨
    (level = false ∧ rx.lastLevel = true ∧
      rxSample level t rx = rxFall t { rx with lastLevel := false }) := by
  unfold rxSample
  cases level <;> cases e : rx.lastLevel
  · exact .inl ⟨rfl, rfl⟩
  · exact .inr (.inr ⟨rfl, rfl, rfl⟩)
  · exact .inr (.inl ⟨rfl, rfl, rfl⟩)
  · exact .inl ⟨rfl, rfl⟩

/-- The four classes by their windows; they are disjoint (R193). -/
theorem classifyWidth_cases (h : BitVec 12) (w : Time) :
    (classifyWidth h w = .bit false ∧ 100 < w.toNat ∧ w.toNat < 400) ∨
    (classifyWidth h w = .bit true ∧ 600 < w.toNat ∧ w.toNat < 900) ∨
    (classifyWidth h w = .start ∧ 1300 < w.toNat ∧ w.toNat < h.toNat) ∨
    (classifyWidth h w = .noise ∧ ¬ (100 < w.toNat ∧ w.toNat < 400) ∧ ¬ (600 < w.toNat ∧ w.toNat < 900) ∧
      ¬ (1300 < w.toNat ∧ w.toNat < h.toNat)) := by
  by_cases h1 : 100 < w.toNat ∧ w.toNat < 400
  · exact .inl ⟨if_pos h1, h1⟩
  by_cases h2 : 600 < w.toNat ∧ w.toNat < 900
  · exact .inr (.inl ⟨(if_neg h1).trans (if_pos h2), h2⟩)
  by_cases h3 : 1300 < w.toNat ∧ w.toNat < h.toNat
  · exact .inr (.inr (.inl ⟨(if_neg h1).trans ((if_neg h2).trans (if_pos h3)), h3⟩))
  · exact .inr (.inr (.inr ⟨(if_neg h1).trans ((if_neg h2).trans (if_neg h3)), h1, h2, h3⟩))

/-- The bits of the buffer after a data bit (R195). -/
theorem appendBit_buf (b : Bool) (rx : RxGroup) (i : Nat) :
    bitAt (appendBit b rx).buf i = if i = 39 - rx.count.toNat then b else bitAt rx.buf i :=
  bitAt_setBit _ _ _ _ (by simp only [Config.frameBits]; omega)

/-- A whole run: first one part of the samples, then the rest (R68). -/
theorem rxFeed_append (es fs : List (Bool × Time)) (rx : RxGroup) :
    rxFeed (es ++ fs) rx =
      { rx := (rxFeed fs (rxFeed es rx).rx).rx
        results := (rxFeed es rx).results ++ (rxFeed fs (rxFeed es rx).rx).results
        reasons := (rxFeed es rx).reasons ++ (rxFeed fs (rxFeed es rx).rx).reasons } := by
  induction es generalizing rx with
  | nil => simp [rxFeed]
  | cons e es ih => simp [rxFeed, ih]

/-- One result a sample (R41). -/
@[simp] theorem rxFeed_results_length (es : List (Bool × Time)) (rx : RxGroup) :
    (rxFeed es rx).results.length = es.length := by
  induction es generalizing rx with
  | nil => rfl
  | cons e es ih => simp [rxFeed, ih]

/-- What every sample keeps, every run keeps. -/
theorem rxFeed_induction {P : RxGroup → Prop}
    (step : ∀ level t rx, P rx → P (rxSample level t rx).rx) (es : List (Bool × Time)) (rx : RxGroup)
    (h0 : P rx) : P (rxFeed es rx).rx := by
  induction es generalizing rx with
  | nil => exact h0
  | cons e es ih => exact ih _ (step _ _ _ h0)

/-- A pulse on a low line: the rise is recorded, and the fall does what the width says (R190 to R192). -/
theorem rxFeed_pulse (r f : Time) (es : List (Bool × Time)) (rx : RxGroup)
    (low : rx.lastLevel = false) :
    rxFeed ((true, r) :: (false, f) :: es) rx =
      (let o := rxFall f { rx with tRise := r }
       { rx := (rxFeed es o.rx).rx
         results := .none :: o.result :: (rxFeed es o.rx).results
         reasons := o.reason.toList ++ (rxFeed es o.rx).reasons }) := by
  obtain ⟨l, c, b, tr, ts, te, la, lv, kf, w⟩ := rx
  simp only at low
  subst low
  rfl

end Sys2Proof.Machine
end

