-- ==== Sys2Proof/Laws/Step.lean ====
section
/-!
SUPPORT. What one step can be, said once; what happens when time passes; what a wave on the line leaves alone.
-/

namespace Sys2Proof.Machine

open Sys2Proof

/-- Nothing left in the script: the agent's transition, or an idle block that stands. -/
theorem passFreely_cases (s : State) :
    (∃ m, agentMoment s = some m ∧ passFreely s = agentTurn m s) ∨
    (agentMoment s = none ∧ passFreely s = s.answer [] []) := by
  unfold passFreely
  split
  · rename_i m h
    exact .inl ⟨m, h, rfl⟩
  · rename_i h
    exact .inr ⟨h, rfl⟩

/-- The clock runs on: the agent's transition that is due, or the clock's new value. -/
theorem passUntil_cases (t : Time) (rest : List Turn) (s : State) :
    (∃ m, agentMoment s = some m ∧ reached t m = true ∧ passUntil t rest s = agentTurn m s) ∨
    passUntil t rest s = ({ s with clock := t, script := rest }).answer [] [] := by
  unfold passUntil
  split
  · rename_i m h
    split
    · exact .inl ⟨m, h, ‹_›, rfl⟩
    · exact .inr rfl
  · exact .inr rfl

/-- A step with an empty script. -/
theorem step_empty {s : State} (h : s.script = []) : step s = .next (passFreely s) := by
  unfold step
  rw [h]

/-- A step under a turn of the clock. -/
theorem step_clock {s : State} {t : Time} {rest : List Turn} (h : s.script = .clock t :: rest) :
    step s = .next (passUntil t rest s) := by
  unfold step
  rw [h]

/-- What a step can be, by the next turn of the script. -/
theorem step_cases {s t : State} (h : step s = .next t) :
    (s.script = [] ∧ t = passFreely s) ∨
    (∃ r rest i, s.script = .call r :: rest ∧ decode r = .ok i ∧ exec i { s with script := rest } = .next t) ∨
    (∃ r rest e, s.script = .call r :: rest ∧ decode r = .error e ∧
      t = receiveUnlisted r { s with script := rest }) ∨
    (∃ u rest, s.script = .clock u :: rest ∧ t = passUntil u rest s) ∨
    (∃ u rest, s.script = .seconds u :: rest ∧
      t = ({ s with hostSeconds := u, script := rest }).answer [] []) ∨
    (∃ b rest, s.script = .cancel b :: rest ∧ t = ({ s with cancel := b, script := rest }).answer [] []) ∨
    (∃ rest, s.script = .newInstance :: rest ∧ t = newInstance { s with script := rest }) ∨
    (∃ rest, s.script = .nextInstance :: rest ∧ t = nextInstance { s with script := rest }) := by
  unfold step at h
  split at h
  · rename_i hs
    cases h
    exact .inl ⟨hs, rfl⟩
  · rename_i r rest hs
    split at h
    · rename_i i hi
      exact .inr (.inl ⟨r, rest, i, hs, hi, h⟩)
    · rename_i e he
      cases h
      exact .inr (.inr (.inl ⟨r, rest, e, hs, he, rfl⟩))
  · rename_i u rest hs
    cases h
    exact .inr (.inr (.inr (.inl ⟨u, rest, hs, rfl⟩)))
  · rename_i u rest hs
    cases h
    exact .inr (.inr (.inr (.inr (.inl ⟨u, rest, hs, rfl⟩))))
  · rename_i b rest hs
    cases h
    exact .inr (.inr (.inr (.inr (.inr (.inl ⟨b, rest, hs, rfl⟩)))))
  · rename_i rest hs
    cases h
    exact .inr (.inr (.inr (.inr (.inr (.inr (.inl ⟨rest, hs, rfl⟩))))))
  · rename_i rest hs
    cases h
    exact .inr (.inr (.inr (.inr (.inr (.inr (.inr ⟨rest, hs, rfl⟩))))))

/-- A wave on the input line changes the receive group, the results, and the next turn of the clock, and nothing
else (R66, R68). -/
theorem receiveWave_eq (es : List (Bool × Time)) (dur : Time) (s : State) :
    receiveWave es dur s = { s with
      rx := (rxFeed es s.rx).rx
      delivered := (rxFeed es s.rx).results.map .rx
      reasons := (rxFeed es s.rx).reasons
      script := .clock (s.clock + dur) :: s.script } := rfl

/-- An unlisted request is a wave, or nothing at all. -/
theorem receiveUnlisted_cases (r : Request) (s : State) :
    (∃ es dur, receiveUnlisted r s = receiveWave es dur s) ∨ receiveUnlisted r s = s.answer [] [] := by
  cases r with
  | frame f => exact .inl ⟨_, _, rfl⟩
  | slots b => exact .inl ⟨_, _, rfl⟩
  | op o x => exact .inr rfl

/-- A turn to the next receive instance only moves instances around. -/
theorem nextInstance_cases (s : State) :
    nextInstance s = s.answer [] [] ∨
    ∃ r rs, s.rxOthers = r :: rs ∧
      nextInstance s = ({ s with rx := r, rxOthers := rs ++ [s.rx] }).answer [] [] := by
  unfold nextInstance
  split
  · exact .inl rfl
  · rename_i r rs h
    exact .inr ⟨r, rs, h, rfl⟩

/-- One more step of a run. -/
theorem run_succ (n : Nat) {s t : State} (h : step s = .next t) :
    Sys2Proof.core.run (n + 1) s = Sys2Proof.core.run n t := by
  have h' : Sys2Proof.core.step s = .next t := h
  simp only [Host.Core.run, h']

/-- A run of `m + n` steps is a run of `m` and then of `n`. -/
theorem run_add (m n : Nat) {s t : State} (h : Sys2Proof.core.run m s = .next t) :
    Sys2Proof.core.run (m + n) s = Sys2Proof.core.run n t := by
  induction m generalizing s with
  | zero =>
    cases h
    rw [Nat.zero_add]
  | succ m ih =>
    simp only [Host.Core.run] at h
    cases hs : Sys2Proof.core.step s with
    | next u =>
      rw [hs] at h
      rw [show m + 1 + n = (m + n) + 1 by omega, run_succ (m + n) hs]
      exact ih h
    | fault r => rw [hs] at h; cases h
    | refused r => rw [hs] at h; cases h

end Sys2Proof.Machine
end

