-- ==== Sys2Proof/Tests/Slice0.lean ====
section
/-!
SUPPORT. Tests: the WellFormed smoke, decoding of written-out words, one or two small tests an instruction with
values of 95_test_vectors.md, and a witness for the hypotheses of each obligation.
-/

namespace Sys2Proof.Tests

open Sys2Proof Sys2Proof.Machine Sys2Proof.Claims

/-! ## Helpers -/

/-- The reset state with a known `tx_key`, the key of 95_test_vectors.md. -/
def base : State := { State.reset with tx := { TxGroup.reset with key := 0xABCD#16 } }

/-- The frame of V4 and its tuple. -/
def zapFrame : Frame := 0x81ABCD647E#40
def zapTuple : Tuple := ⟨0xABCD#16, 1#2, 4#3, 0x64#8⟩

/-- What a call answers: its next state. -/
def onward (a : Answer) : State :=
  match a with
  | .next s => s
  | .fault _ => base
  | .refused _ => base

/-- The state after instruction `i`. -/
def did (i : Instr) (s : State) : State := onward (exec i s)

/-- After `n` steps. -/
def stepped : Nat → State → State
  | 0, s => s
  | n + 1, s => stepped n (onward (step s))

/-- A base state with a receive group, a transmit group or a session group. -/
def withRx (rx : RxGroup) : State := { base with rx := rx }
def withTx (tx : TxGroup) : State := { base with tx := tx }
def withSes (ses : SesGroup) : State := { base with ses := ses }

/-- A receive group that holds the 40 bits of V4's frame, started at 1500. -/
def rxFull : RxGroup := { RxGroup.reset with count := 40#6, buf := zapFrame, tStart := 1500#32 }

/-- A receive group that lacks the last bit of that frame; the line is low or high, the last rise at 41250. -/
def rx39 : RxGroup := { rxFull with count := 39#6, tRise := 41250#32 }
def rx39High : RxGroup := { rx39 with lastLevel := true }

/-- A transmit group inside a session's emission of V4's frame begun at 0, before symbol `k`. -/
def txAt (k : BitVec 6) (deadline fallAt : Time) : TxGroup :=
  { key := 0xABCD#16, frame := zapFrame, sym := k, deadline := deadline, out := false, active := true,
    gap := false, fallAt := fallAt, byHost := false }

/-- A session of the one frame of V4 at phase `p`. -/
def sesAt (p : SesPhase) (budget : BitVec 32) (ce : Bool) : SesGroup :=
  { SesGroup.reset with frame0 := zapFrame, n := 1#2, phase := p, budget := budget, cancelEn := ce }

/-- Between the two emissions of a session's round; the next one is that of `ses_frame[1]`. -/
def between : State :=
  withSes { sesAt (.round 1) 0xFFFFFFFE#32 false with frame1 := 0xF1ABCD6470#40, n := 2#2 }

/-! ## WellFormed refuses ill-formed instructions -/

theorem test_wf_cfg_no_4 : WellFormed (.cfgWrite 4 0#16) = false := by decide
theorem test_wf_cfg_no_3 : WellFormed (.cfgWrite 3 0#16) = true := by decide
theorem test_wf_report_chan_0 : WellFormed (.rxReport ⟨0#16, 0#2, 1#3, 0#8⟩ 0#32) = false := by decide
theorem test_wf_report_chan_3 : WellFormed (.rxReport ⟨0#16, 3#2, 1#3, 0#8⟩ 0#32) = false := by decide
theorem test_wf_report_cmd_0 : WellFormed (.rxReport ⟨0#16, 1#2, 0#3, 0#8⟩ 0#32) = false := by decide
theorem test_wf_report_cmd_5 : WellFormed (.rxReport ⟨0#16, 2#2, 5#3, 0#8⟩ 0#32) = false := by decide
theorem test_wf_report_zap : WellFormed (.rxReport zapTuple 0#32) = true := by decide

/-! ## Decoding, from words written out (R92, R93, R70) -/

/-- V11's eight frames, key 0x1234, power 0x0A. -/
theorem test_decode_frames :
    decode (.frame 0x8812340AEE#40) = .ok (.led1 0x1234#16 0x0A#8) ∧
    decode (.frame 0x8412340ADE#40) = .ok (.beep1 0x1234#16 0x0A#8) ∧
    decode (.frame 0x8212340ABE#40) = .ok (.vibrate1 0x1234#16 0x0A#8) ∧
    decode (.frame 0x8112340A7E#40) = .ok (.zap1 0x1234#16 0x0A#8) ∧
    decode (.frame 0xF812340AE0#40) = .ok (.led2 0x1234#16 0x0A#8) ∧
    decode (.frame 0xF412340AD0#40) = .ok (.beep2 0x1234#16 0x0A#8) ∧
    decode (.frame 0xF212340AB0#40) = .ok (.vibrate2 0x1234#16 0x0A#8) ∧
    decode (.frame 0xF112340A70#40) = .ok (.zap2 0x1234#16 0x0A#8) := by decide

/-- The bit string of V4. -/
theorem test_decode_zap1_bits :
    decode (.frame 0b1000000110101011110011010110010001111110#40) = .ok (.zap1 0xABCD#16 0x64#8) := by decide

/-- The three slot strings of R92. -/
theorem test_decode_symbols :
    decode (.slots [true, true, true, true, true, true, false, false, false]) = .ok .start ∧
    decode (.slots [true, true, true, false]) = .ok .one ∧
    decode (.slots [true, false, false, false]) = .ok .zero := by decide

/-- The fifteen strobes with their operand ports (R70). -/
theorem test_decode_ops :
    decode (.op .encode { key := 0xABCD#16, chan := 1#2, cmd := 4#3, power := 0x64#8 }) =
      .ok (.encode 0xABCD#16 1#2 4#3 0x64#8) ∧
    decode (.op .decode { frame := zapFrame, filter := 0x1234#16 }) = .ok (.decode zapFrame 0x1234#16) ∧
    decode (.op .emit { frame := zapFrame }) = .ok (.emit zapFrame) ∧
    decode (.op .sessionRun { cmd := 4#3, sel := 3#2, power := 0x64#8, budget := 5#32, cancelEn := true }) =
      .ok (.sessionRun 4#3 3#2 0x64#8 5#32 true false) ∧
    decode (.op .keepaliveTick {}) = .ok .keepaliveTick ∧
    decode (.op .rxSample { level := true, t := 7#32 }) = .ok (.rxSample true 7#32) ∧
    decode (.op .rxRise { t := 7#32 }) = .ok (.rxRise 7#32) ∧
    decode (.op .rxFall { t := 7#32 }) = .ok (.rxFall 7#32) ∧
    decode (.op .classify { w := 9#32 }) = .ok (.classify 9#32) ∧
    decode (.op .rxStart { t := 7#32 }) = .ok (.rxStart 7#32) ∧
    decode (.op .rxBit { b := true, t := 7#32 }) = .ok (.rxBit true 7#32) ∧
    decode (.op .rxComplete { t := 7#32 }) = .ok (.rxComplete 7#32) ∧
    decode (.op .rxReport { key := 0xABCD#16, chan := 1#2, cmd := 4#3, power := 0x64#8, t := 7#32 }) =
      .ok (.rxReport zapTuple 7#32) ∧
    decode (.op .reset {}) = .ok .reset ∧
    decode (.op .cfgWrite { no := 2#2, value := 3#16 }) = .ok (.cfgWrite 2 3#16) := by decide

/-- Rejected by name: V32's flip of bit 32, the all-zero word, a byte 4 of the other channel, a slot string too many. -/
theorem test_decode_rejects :
    decode (.frame 0x80ABCD647E#40) = .error .badMode ∧ decode (.frame 0#40) = .error .badChannel ∧
    decode (.frame 0x81ABCD6470#40) = .error .badChannel ∧
    decode (.slots [true, true, true, true]) = .error .notASymbol := by decide

/-- The table's own numbering of the bits. -/
theorem test_table_words :
    decodeTableWord 40 0x88000000EE = some (.led1 0#16 0#8) ∧ decodeTableWord 16 0b111111000 = some .start ∧
    decodeTableWord 8 0b1110 = some .one ∧ decodeTableWord 8 0b1000 = some .zero := by decide

/-- The eight rows have different fixed bits. -/
theorem test_rows_disjoint : frameRows.Pairwise fun r q => r.1 ≠ q.1 := by decide

/-! ## The instructions -/

/-- V1, V12. -/
theorem test_encode :
    (did (.encode 0xABCD#16 1#2 1#3 0x64#8) base).delivered = [.encoded 0x88ABCD64EE#40 true] ∧
    (did (.encode 0xABCD#16 0#2 4#3 0x64#8) base).delivered = [.encoded 0#40 false] ∧
    (did (.encode 0xABCD#16 0#2 4#3 0x64#8) base).reasons = [.invalidChannel] := by decide

/-- V19 and a key mismatch. -/
theorem test_decode :
    (did (.decode 0xF1ABCD6470#40 0#16) base).delivered =
      [.decoded (some ⟨0xABCD#16, 2#2, 4#3, 0x64#8⟩)] ∧
    (did (.decode 0xF1ABCD6470#40 0x1234#16) base).reasons = [.keyMismatch] := by decide

/-- P1: `tx_active` rises with the call at 1000; V48: a sentinel shows nothing and returns at once. -/
theorem test_emit :
    (did (.emit zapFrame) { base with clock := 1000#32 }).waves =
      [.emitted zapFrame 1000#32, .edge .txActive true 1000#32] ∧
    (did (.emit 0x7FFFFFFFFF#40) base).waves = [] ∧
    (did (.emit 0x7FFFFFFFFF#40) base).delivered = [.emitReturned] := by decide

/-- V47: the rise of pulse 1 at 2250. -/
theorem test_emit_rise :
    (stepped 1 (withTx (txAt 1#6 2250#32 1500#32))).waves = [.edge .txOut true 2250#32] ∧
    (stepped 1 (withTx (txAt 1#6 2250#32 1500#32))).tx.fallAt = 3000#32 := by decide

/-- R246, R68 (1): EMIT between two emissions of a session is taken and waits for the session; R158: with `tx_busy` = 1
it is ignored. -/
theorem test_emit_in_a_session :
    (did (.emit 0x88ABCD64EE#40) between).txCalls = [.emit 0x88ABCD64EE#40] ∧
    (did (.emit 0x88ABCD64EE#40) between).tx = between.tx ∧
    (stepped 1 (did (.emit 0x88ABCD64EE#40) between)).tx.frame = 0xF1ABCD6470#40 ∧
    (did (.emit 0x88ABCD64EE#40) (withTx (txAt 0#6 0#32 0#32))).txCalls = [] := by decide

/-- V50: the two frames, and the first polled check. -/
theorem test_session_run :
    (did (.sessionRun 4#3 3#2 0x64#8 0xFFFFFFFE#32 true false) base).ses.frame0 = 0x81ABCD647E#40 ∧
    (did (.sessionRun 4#3 3#2 0x64#8 0xFFFFFFFE#32 true false) base).ses.frame1 = 0xF1ABCD6470#40 ∧
    (stepped 1 (did (.sessionRun 4#3 3#2 0x64#8 0xFFFFFFFE#32 true false) base)).waves =
      [.polled false 0#32] := by decide

/-- R68 (1): the first of the calls that wait begins when the session has returned, the other waits on; a call made
then waits behind it. -/
theorem test_waiting_calls :
    (stepped 1 { base with txCalls := [.session 1#3 1#2 0x64#8 0xFFFFFFFF#32 false false, .emit zapFrame] }).ses.frame0 =
      0x88ABCD64EE#40 ∧
    (stepped 1 { base with txCalls := [.session 1#3 1#2 0x64#8 0xFFFFFFFF#32 false false, .emit zapFrame] }).txCalls =
      [.emit zapFrame] ∧
    (did .keepaliveTick { base with txCalls := [.emit zapFrame] }).txCalls = [.emit zapFrame, .keepalive] := by decide

/-- V54. -/
theorem test_session_errors :
    (did (.sessionRun 5#3 3#2 10#8 0xFFFFFFFE#32 false false) base).delivered = [.session .error] ∧
    (did (.sessionRun 1#3 0#2 10#8 0xFFFFFFFE#32 false false) base).reasons = [.sessionNoChannel] := by decide

/-- R178: due at 121 s with a mask, not at 120 s. -/
theorem test_keepalive_tick :
    (did .keepaliveTick { base with hostSeconds := 121#32, ka := { KaGroup.reset with mask := 1#2 } }).ses.budget =
      0xFFFFFFFD#32 ∧
    did .keepaliveTick { base with hostSeconds := 120#32, ka := { KaGroup.reset with mask := 1#2 } } =
      { base with hostSeconds := 120#32, ka := { KaGroup.reset with mask := 1#2 } } := by
  constructor <;> rfl

/-- V41, and the 40th bit at 41500 (V34g). -/
theorem test_rx_sample :
    (did (.rxSample true 5100#32) (did (.rxSample true 5000#32) base)).rx.tRise = 5000#32 ∧
    (did (.rxSample false 41500#32) (withRx rx39High)).delivered = [.rx .new] := by decide

theorem test_rx_rise : (did (.rxRise 5000#32) base).rx.tRise = 5000#32 := by decide

/-- V42: a bit in IDLE and a pulse of 50. -/
theorem test_rx_fall :
    (did (.rxFall 1250#32) (withRx { RxGroup.reset with tRise := 1000#32 })).reasons = [.strayBit] ∧
    (did (.rxFall 150#32) (withRx { RxGroup.reset with tRise := 100#32 })).reasons = [.noiseWidth] := by decide

/-- V33. -/
theorem test_classify :
    [100#32, 101#32, 399#32, 400#32, 600#32, 601#32, 899#32, 900#32, 1300#32, 1301#32, 1799#32, 1800#32].map
      (classifyWidth 1800#12) =
      [.noise, .bit false, .bit false, .noise, .noise, .bit true, .bit true, .noise, .noise, .start, .start,
       .noise] ∧
    (did (.classify 1700#32) (withRx { RxGroup.reset with wStartHi := 1700#12 })).delivered = [.classified .noise] := by decide

/-- V45: a start marker with bits in. -/
theorem test_rx_start :
    (did (.rxStart 2500#32) (withRx { rxFull with count := 10#6 })).rx.count = 0#6 ∧
    (did (.rxStart 2500#32) (withRx { rxFull with count := 10#6 })).reasons = [.truncatedFrame] := by decide

/-- R195: the first bit is bit 39. -/
theorem test_rx_bit :
    (did (.rxBit true 3000#32) (withRx { RxGroup.reset with count := 0#6 })).rx.buf = 0x8000000000#40 ∧
    (did (.rxBit true 3000#32) (withRx { RxGroup.reset with count := 0#6 })).rx.count = 1#6 := by decide

/-- V34b, V34a. -/
theorem test_rx_complete :
    (did (.rxComplete 38499#32) (withRx rxFull)).reasons = [.badDuration] ∧
    (did (.rxComplete 38500#32) (withRx rxFull)).delivered = [.rx .new] := by decide

/-- V35a, V35b. -/
theorem test_rx_report :
    (did (.rxReport zapTuple 201499#32) (withRx { rxFull with
      tStart := 161499#32, tEnd := 41500#32, last := zapTuple, lastValid := true })).delivered =
      [.rx .repeated] ∧
    (did (.rxReport zapTuple 201500#32) (withRx { rxFull with
      tStart := 161500#32, tEnd := 41500#32, last := zapTuple, lastValid := true })).delivered =
      [.rx .new] := by decide

/-- R260: an emission ends at once. -/
theorem test_reset :
    (did .reset { base with tx := { base.tx with out := true, active := true, sym := 3#6 }, clock := 9#32 }).waves =
      [.edge .txOut false 9#32, .edge .txActive false 9#32] ∧
    (did .reset (withRx rx39)).rx = RxGroup.reset := by decide

/-- R44: truncated to 2 and to 12 bits. -/
theorem test_cfg_write :
    (did (.cfgWrite 2 0xFFFF#16) base).ka.mask = 3#2 ∧
    (did (.cfgWrite 3 0xF6A4#16) base).rx.wStartHi = 0x6A4#12 := by
  decide

/-- R68 (4), R252: a new instance has its own `w_start_hi`, at its reset value; the first keeps what was written. -/
theorem test_instances_share_nothing :
    (stepped 1 { did (.cfgWrite 3 1700#16) base with script := [.newInstance] }).rx.wStartHi = 1800#12 ∧
    (stepped 2 { did (.cfgWrite 3 1700#16) base with script := [.newInstance, .nextInstance] }).rx.wStartHi =
      1700#12 := by decide

/-- V46: with `w_start_hi` = 1700 a pulse of 1750 is no start marker. -/
theorem test_start_window :
    (did (.rxFall 1750#32) (withRx { RxGroup.reset with wStartHi := 1700#12 })).reasons = [.noiseWidth] ∧
    (did (.rxFall 1750#32) base).rx.tStart = 1750#32 := by decide

/-- R91: the three symbols on the line, from IDLE and with no bit in yet. -/
theorem test_symbols :
    (did .start base).rx.tStart = 1500#32 ∧ (did .start base).script = [.clock 2250#32] ∧
    (did .one (withRx { RxGroup.reset with count := 0#6 })).rx.buf = 0x8000000000#40 ∧
    (did .zero (withRx { RxGroup.reset with count := 0#6 })).rx.count = 1#6 := by decide

/-- V17 and V35: each frame type, from reset at 0, is NEW with its tuple at 41500. -/
theorem test_led1 : (did (.led1 0xABCD#16 0x64#8) base).rx.last = ⟨0xABCD#16, 1#2, 1#3, 0x64#8⟩ := by
  decide +kernel
theorem test_beep1 : (did (.beep1 0xABCD#16 0x64#8) base).rx.last = ⟨0xABCD#16, 1#2, 2#3, 0x64#8⟩ := by
  decide +kernel
theorem test_vibrate1 : (did (.vibrate1 0xABCD#16 0x64#8) base).rx.last = ⟨0xABCD#16, 1#2, 3#3, 0x64#8⟩ := by
  decide +kernel
theorem test_zap1 : (did (.zap1 0xABCD#16 0x64#8) base).rx.tEnd = 41500#32 ∧
    (did (.zap1 0xABCD#16 0x64#8) base).delivered = oneReport .new := by decide +kernel
theorem test_led2 : (did (.led2 0xABCD#16 0x64#8) base).rx.last = ⟨0xABCD#16, 2#2, 1#3, 0x64#8⟩ := by
  decide +kernel
theorem test_beep2 : (did (.beep2 0xABCD#16 0x64#8) base).rx.last = ⟨0xABCD#16, 2#2, 2#3, 0x64#8⟩ := by
  decide +kernel
theorem test_vibrate2 : (did (.vibrate2 0xABCD#16 0x64#8) base).rx.last = ⟨0xABCD#16, 2#2, 3#3, 0x64#8⟩ := by
  decide +kernel
theorem test_zap2 : (did (.zap2 0xABCD#16 0x64#8) base).rx.last = ⟨0xABCD#16, 2#2, 4#3, 0x64#8⟩ := by
  decide +kernel

/-- The step runs a table row's word as the first thing after reset. -/
theorem test_with_fetch_word :
    step (State.reset.withFetchWord 8 0b1110) = exec .one State.reset := rfl

/-- A step of an emission is safe. -/
theorem test_safe_run : SafeRun 1 (withTx (txAt 0#6 0#32 0#32)) := ⟨_, rfl⟩

/-! ## Witnesses: states and operands that meet the hypotheses of each obligation, clause by clause -/

/-- The base state is idle. -/
theorem witness_idle : agentIdle base ∧ base.script = [] ∧ base.draws = [] := ⟨⟨rfl, rfl, rfl⟩, rfl, rfl⟩

/-- `tx_busy` is 0 while a session runs, between two of its emissions. -/
theorem witness_between :
    between.tx.sym = 63#6 ∧ between.ses.phase ≠ .idle ∧ between.script = [] ∧ between.draws = [] := by decide

theorem witness_DecodeOfEncodeIsTheInstruction :
    WellFormed (.cfgWrite 3 0xFFFF#16) = true ∧
    WellFormed (.rxReport ⟨0xFFFF#16, 2#2, 4#3, 0xFF#8⟩ 0#32) = true ∧
    decode (.frame 0x88FFFFFFEE#40) = .ok (.led1 0xFFFF#16 0xFF#8) ∧ decode (.slots oneSlots) = .ok .one := by decide

theorem witness_StepRunsTheDecodedInstruction : decode (.op .rxRise { t := 7#32 }) = .ok (.rxRise 7#32) := rfl

/-- Idle, nothing is ever due; in an emission whose next rise is at 2250, it is due at 2250 and not at 2249; no other
instance, and one. -/
theorem witness_EnvironmentTurnsMoveOnlyTheirInput :
    agentIdle base ∧ nextTransitionAt base = none ∧
    nextTransitionAt (withTx (txAt 1#6 2250#32 1500#32)) = some 2250#32 ∧
    ¬ isDue 2249#32 2250#32 ∧ isDue 2250#32 2250#32 ∧ base.rxOthers = [] ∧
    { base with rxOthers := [rxFull] }.rxOthers = rxFull :: [] := by
  refine ⟨⟨rfl, rfl, rfl⟩, rfl, rfl, ?_, ?_, rfl, rfl⟩ <;> unfold isDue <;> decide

/-- A good state in the middle of a session's emission, with an EMIT waiting. -/
def busyBase : State :=
  { withTx (txAt 3#6 4250#32 3500#32) with ses := sesAt (.round 1) 0#32 false, txCalls := [.emit zapFrame] }

theorem sesAt_ok {p : SesPhase} (budget : BitVec 32) (ce : Bool) (h : ∀ i, p = .round i → i ≤ 1) :
    (sesAt p budget ce).Ok := fun _ => ⟨.inl rfl, (by decide : zapFrame.getLsbD 39 = true), by simp [sesAt], h⟩

theorem witness_EveryStepKeepsTheInvariant_1 : busyBase.Inv ∧ ∃ t, step busyBase = .next t := by
  refine ⟨⟨⟨by decide, by decide, by decide, by decide⟩, by simp [busyBase, withTx, base, State.reset],
    ⟨by decide, by decide, by decide, by decide, by decide⟩, ⟨?_, fun _ _ => ⟨0, rfl⟩, ?_⟩, ?_⟩, _, rfl⟩
  · refine sesAt_ok _ _ ?_
    rintro i ⟨⟩
    decide
  · intro _ h
    cases h
  · intro r h
    cases h

theorem witness_EveryStepKeepsTheInvariant_2 :
    exec (.rxBit true 5#32) (withRx rxFull) = .next (did (.rxBit true 5#32) (withRx rxFull)) ∧
    (withRx rxFull).rx.count ≠ 63#6 := ⟨rfl, by decide⟩

theorem witness_EncodeAssemblesTheFrame :
    (isChannel 1#2 ∧ isCommand 1#3) ∧ (isChannel 2#2 ∧ isCommand 4#3) ∧
    ¬ (isChannel 3#2 ∧ isCommand 4#3) ∧ ¬ (isChannel 1#2 ∧ isCommand 5#3) := by
  unfold isChannel isCommand
  decide

theorem witness_EncodeProperties :
    (packetEncode 0xFFFF#16 2#2 4#3 0xFF#8).2 = true ∧ (packetEncode 0#16 1#2 1#3 0#8).2 = true := by decide

theorem witness_EightFrameTypes : ⟨.zap2, 2#2, 4#3, 0xF1#8, 0x70#8⟩ ∈ frameTable := by simp [frameTable]

/-- The key passes with no filter and with its own, and no other; each of the three checks can be the one that
fails; V18 passes all. -/
theorem witness_DecodeChecksKeyThenChannelThenMode :
    (0x1234#16 ≠ 0#16 ∧ zapFrame.extractLsb' 16 16 ≠ 0x1234#16) ∧
    (zapFrame.extractLsb' 16 16 = 0xABCD#16) ∧
    (¬ ((0x81ABCD6470#40).extractLsb' 36 4 = 0b1000#4 ∧ (0x81ABCD6470#40).extractLsb' 0 4 = 0b1110#4) ∧
      ¬ ((0x81ABCD6470#40).extractLsb' 36 4 = 0b1111#4 ∧ (0x81ABCD6470#40).extractLsb' 0 4 = 0b0000#4)) ∧
    ((0x80ABCD647E#40).extractLsb' 36 4 = 0b1000#4 ∧ (0x80ABCD647E#40).extractLsb' 0 4 = 0b1110#4 ∧
      (0x80ABCD647E#40).extractLsb' 32 4 = 0b0000#4) ∧
    (zapFrame.extractLsb' 36 4 = 0b1000#4 ∧ zapFrame.extractLsb' 0 4 = 0b1110#4 ∧
      zapFrame.extractLsb' 32 4 = 0b0001#4 ∧ zapFrame.extractLsb' 4 4 = 0b0111#4) := by decide

theorem witness_EncodeDecodeRoundTrip :
    isChannel 2#2 ∧ isCommand 4#3 ∧ packetDecode zapFrame 0#16 = .ok zapTuple :=
  ⟨.inr rfl, by simp [isCommand], rfl⟩

/-- Flips of bits 7, 32 and of 8, 15, 16, 31, and a pair of different types. -/
theorem witness_SingleBitFlipsOfAValidFrame :
    packetDecode zapFrame 0#16 = .ok zapTuple ∧ zapTuple.key ≠ 0#16 ∧
    packetDecode 0x88ABCD64EE#40 0#16 = .ok ⟨0xABCD#16, 1#2, 1#3, 0x64#8⟩ ∧
    (zapTuple.chan, zapTuple.cmd) ≠ (1#2, 1#3) := ⟨rfl, by decide, rfl, by decide⟩

theorem witness_Byte4IsByte0ReversedAndInverted : packetDecode zapFrame 0#16 = .ok zapTuple := rfl

/-- The lead-in bit alone, and all but it (V48). -/
theorem witness_EmitTestsTheLeadInBitOnly :
    (base.tx.sym = 63#6 ∧ base.ses.phase = .idle ∧ base.txCalls = []) ∧ (0x8000000000#40).getLsbD 39 = true ∧
    (0x7FFFFFFFFF#40).getLsbD 39 = false := by decide

theorem witness_EmitWhileBusyIsIgnored : (withTx (txAt 0#6 0#32 0#32)).tx.sym ≠ 63#6 := by decide

theorem txAt_ok (k : BitVec 6) (d f : Time) (h : k.toNat ≤ 41) : (txAt k d f).Ok := by
  refine ⟨.inl (by simp only [txAt]; omega), by simp [txAt], ?_, by simp [txAt], fun _ => ?_⟩
  · simp only [txAt]
    exact ⟨fun _ => .inl h, fun _ => trivial⟩
  · show zapFrame.getLsbD 39 = true
    decide

/-- Time may pass with an empty script, or under a turn of the clock to that very time. -/
theorem mayPass_clock (s : State) (m : Time) : mayPass { s with script := [.clock m] } m :=
  .inr ⟨m, [], rfl, by simp [isDue]⟩

/-- Before symbols 0 and 41, at 42 before and in the silence, a session's emission and a host's; freely and under a turn of the clock. -/
theorem witness_EmissionTransitions :
    (withTx (txAt 0#6 0#32 0#32)).tx.Ok ∧ (withTx (txAt 41#6 42250#32 41500#32)).tx.Ok ∧
    (withTx (txAt 42#6 43250#32 42500#32)).tx.Ok ∧
    TxGroup.Ok { txAt 42#6 52250#32 42500#32 with active := false, gap := true } ∧
    TxGroup.Ok { txAt 42#6 52250#32 42500#32 with active := false, gap := true, byHost := true } ∧
    (0#32 - 0#32 : Time).toNat < 2 ^ 31 ∧ (42250#32 - 41500#32 : Time).toNat < 2 ^ 31 ∧
    mayPass (withTx (txAt 0#6 0#32 0#32)) 1500#32 ∧
    mayPass { withTx (txAt 41#6 42250#32 41500#32) with script := [.clock 42500#32] } 42250#32 ∧
    mayPass { withTx (txAt 41#6 42250#32 41500#32) with script := [.clock 42500#32] } 42500#32 := by
  refine ⟨txAt_ok _ _ _ (by decide), txAt_ok _ _ _ (by decide), ?_, ?_, ?_, by decide, by decide, .inl rfl,
    .inr ⟨_, _, rfl, by unfold isDue; decide⟩, mayPass_clock _ _⟩ <;>
    exact ⟨by decide, by decide, by decide, by decide, by decide⟩

/-- With an empty script, and with the earliest clock turn. -/
theorem witness_EmissionDrivesTheNominalWaveform :
    zapFrame.getLsbD 39 = true ∧ agentIdle base ∧ base.draws = [] ∧ base.script = [] ∧
    { base with script := [.clock (after base.clock 52250)] }.script = [.clock (after base.clock 52250)] ∧
    52250 ≤ 52250 ∧ 52250 < 2 ^ 31 :=
  ⟨by decide, ⟨rfl, rfl, rfl⟩, rfl, rfl, rfl, le_rfl, by decide⟩

theorem witness_DeadlinesDoNotDependOnJitter :
    zapFrame.getLsbD 39 = true ∧ agentIdle { base with draws := [(30#32, 152#32)] } ∧
    { base with draws := [(30#32, 152#32)] }.script = [] := ⟨by decide, ⟨rfl, rfl, rfl⟩, rfl⟩

/-- The largest overrun that does not delay the next pulse, and a last fall after the deadline. -/
def drawn (fallAt : Time) : State := { withTx (txAt 1#6 2250#32 fallAt) with draws := [(0#32, 251#32)] }

theorem witness_OverrunsAreNotCompounded :
    ((drawn 1650#32).script = [] ∧ (drawn 1650#32).draws = (0#32, 251#32) :: [] ∧
      (drawn 1650#32).tx.sym.toNat ≤ 41 ∧ (drawn 1650#32).tx.out = false ∧
      ((drawn 1650#32).tx.deadline - (drawn 1650#32).tx.fallAt).toNat < 2 ^ 31 ∧
      pulseWidth (drawn 1650#32).tx.frame 1 = 750 ∧ (0#32).toNat + (251#32).toNat < (1000 - 750) + 2) ∧
    ¬ ((drawn 2251#32).tx.deadline - (drawn 2251#32).tx.fallAt).toNat < 2 ^ 31 := by decide

theorem witness_OverrunsAreNotCompounded_passing :
    mayPass (drawn 1650#32) 2250#32 ∧ mayPass { drawn 2251#32 with script := [.clock 3250#32] } 2251#32 ∧
    mayPass { drawn 2251#32 with script := [.clock 3250#32] } 3250#32 :=
  ⟨.inl rfl, .inr ⟨_, _, rfl, by unfold isDue; decide⟩, mayPass_clock _ _⟩

theorem witness_SequencerNeverSkips :
    (withTx (txAt 41#6 42250#32 41500#32)).tx.Ok ∧ ∃ t, step (withTx (txAt 41#6 42250#32 41500#32)) = .next t :=
  ⟨txAt_ok _ _ _ (by decide), _, rfl⟩

theorem witness_SessionEncodesItsFramesAtStart :
    agentIdle base ∧ isCommand 1#3 ∧ isCommand 4#3 ∧ (1#2 ≠ 0#2) ∧ (3#2 ≠ 0#2) :=
  ⟨⟨rfl, rfl, rfl⟩, .inl rfl, by simp [isCommand], by decide, by decide⟩

theorem witness_SessionErrorsSendNothing : agentIdle base ∧ ¬ isCommand 0#3 ∧ ¬ isCommand 5#3 :=
  ⟨⟨rfl, rfl, rfl⟩, by simp [isCommand], by simp [isCommand]⟩

/-- At the check: cancelled; the budget -1 before a round, not reached, and after one, reached; the budget 0 of V53,
reached whatever the unit. -/
def checking (budget round : BitVec 32) (c : Bool) : State :=
  { withSes { sesAt .check budget c with round := round } with cancel := c }

theorem witness_SessionChecksCancellationThenBudget :
    ((checking 0#32 0#32 true).script = [] ∧ (checking 0#32 0#32 true).tx.sym = 63#6 ∧
      (checking 0#32 0#32 true).ses.phase = .check ∧
      (checking 0#32 0#32 true).ses.cancelEn = true ∧ (checking 0#32 0#32 true).cancel = true) ∧
    (checking 0#32 0#32 false).ses.cancelEn = false ∧
    (∀ unit : Nat, 0 ≤ (checking 0#32 0#32 false).ses.budget.toInt ∧
      (checking 0#32 0#32 false).ses.budget.toInt.toNat * unit ≤
        ((checking 0#32 0#32 false).clock - (checking 0#32 0#32 false).ses.tBegin).toNat) ∧
    ((checking 0xFFFFFFFF#32 1#32 false).ses.budget.toInt < 0 ∧
      (-(checking 0xFFFFFFFF#32 1#32 false).ses.budget.toInt).toNat ≤
        (checking 0xFFFFFFFF#32 1#32 false).ses.round.toNat) ∧
    ¬ ((-(checking 0xFFFFFFFF#32 0#32 false).ses.budget.toInt).toNat ≤
        (checking 0xFFFFFFFF#32 0#32 false).ses.round.toNat) := by
  refine ⟨by decide, rfl, fun unit => ⟨by decide, ?_⟩, by decide, by decide⟩
  have h : (checking 0#32 0#32 false).ses.budget.toInt.toNat = 0 := by decide
  rw [h, Nat.zero_mul]
  exact Nat.zero_le _

/-- A keep-alive's session at its check, its budget reached. -/
theorem witness_SessionChecksCancellationThenBudget_keepalive :
    let s := withSes { sesAt .check 0xFFFFFFFD#32 false with round := 3#32, keepalive := true }
    s.script = [] ∧ s.tx.sym = 63#6 ∧ s.ses.phase = .check ∧ s.ses.keepalive = true ∧ s.ses.budget.toInt < 0 ∧
    (-s.ses.budget.toInt).toNat ≤ s.ses.round.toNat := by decide

/-- The check and the round under a turn of the clock to the present time. -/
theorem witness_SessionTransitions_passing :
    mayPass { checking 0#32 0#32 false with script := [.clock 0#32] } 0#32 ∧
    mayPass { withSes (sesAt (.round 0) 0#32 false) with script := [.clock 0#32] } 0#32 :=
  ⟨mayPass_clock _ _, mayPass_clock _ _⟩

theorem witness_SessionRoundEmitsEachFrameOnce :
    (withSes (sesAt (.round 0) 0#32 false)).tx.sym = 63#6 ∧ 0 < (sesAt (.round 0) 0#32 false).n.toNat ∧
    (sesAt (.round 1) 0#32 false).n.toNat ≤ 1 := by decide

theorem witness_CountBudgetSendsExactlyThatManyRounds :
    agentIdle base ∧ isCommand 4#3 ∧ (3#2 ≠ 0#2) ∧ base.draws = [] ∧ base.script = [] ∧
    1 ≤ 2 ^ 31 ∧ 2 ^ 31 ≤ 2 ^ 31 :=
  ⟨⟨rfl, rfl, rfl⟩, by simp [isCommand], by decide, rfl, rfl, by decide, le_rfl⟩

/-- Due at 121 s, not due at 120 s. -/
theorem witness_KeepaliveTickIssuesTheFixedSession :
    agentIdle base ∧ (1#2 ≠ 0#2 ∧ 120 < (121#32 - 0#32 : Time).toNat) ∧
    ¬ (1#2 ≠ 0#2 ∧ 120 < (120#32 - 0#32 : Time).toNat) := ⟨⟨rfl, rfl, rfl⟩, by decide, by decide⟩

theorem witness_RxSampleActsOnLevelChangesOnly :
    base.rx.lastLevel = false ∧ (withRx rx39High).rx.lastLevel = true ∧
    (did (.rxSample false 41500#32) (withRx rx39High)).delivered ≠ [.rx .none] := by decide

/-- The widths at the windows' edges (V33). -/
theorem witness_FallingEdgeDoesWhatItsWidthSays :
    ((101#32 - 0#32 : Time).toNat = 101 ∧ (399#32 - 0#32 : Time).toNat = 399) ∧
    ((601#32 - 0#32 : Time).toNat = 601 ∧ (899#32 - 0#32 : Time).toNat = 899) ∧
    ((1301#32 - 0#32 : Time).toNat = 1301 ∧ (1799#32 - 0#32 : Time).toNat = 1799 ∧ base.rx.wStartHi.toNat = 1800) ∧
    (∀ w ∈ [100, 400, 600, 900, 1300, 1800], ¬ (100 < w ∧ w < 400) ∧ ¬ (600 < w ∧ w < 900) ∧
      ¬ (1300 < w ∧ w < base.rx.wStartHi.toNat)) := by decide

/-- Counts 63, 40, 0, 38, 39. -/
theorem witness_DataBitIsAppendedOrIgnored :
    40 ≤ base.rx.count.toNat ∧ 40 ≤ rxFull.count.toNat ∧ (0#6).toNat < 39 ∧ (38#6).toNat < 39 ∧
    rx39.count.toNat = 39 := by decide

/-- V34's four boundary durations; the buffer decodes, and under another filter it does not. -/
theorem witness_CompletionGatesThenDecodesThenReports :
    (38499#32 - rxFull.tStart).toNat < 37000 ∧ 42000 < (43501#32 - rxFull.tStart).toNat ∧
    37000 ≤ (38500#32 - rxFull.tStart).toNat ∧ (43500#32 - rxFull.tStart).toNat ≤ 42000 ∧
    (did (.decode rxFull.buf 0x1234#16) base).delivered = [.decoded none] ∧
    (did (.decode rxFull.buf rxFull.keyFilter) base).delivered = [.decoded (some zapTuple)] := by decide

/-- V35a and V35b; and nothing accepted yet. -/
theorem witness_RepeatSuppression :
    (161499#32 - 41500#32 : Time).toNat < 120000 ∧ ¬ (161500#32 - 41500#32 : Time).toNat < 120000 ∧
    base.rx.lastValid = false := by decide

theorem witness_AcceptanceIsSound :
    exec (.rxSample false 41500#32) (withRx rx39High) = .next (did (.rxSample false 41500#32) (withRx rx39High)) ∧
    (did (.rxSample false 41500#32) (withRx rx39High)).delivered = [.rx .new] := ⟨rfl, by decide⟩

theorem witness_NoneKeepsTheAcceptedCommand :
    singleCall (.rxComplete 38499#32) = true ∧
    (did (.rxComplete 38499#32) (withRx rxFull)).delivered = [.rx .none] ∧
    singleCall (.rxRise 0#32) = true ∧ (did (.rxRise 0#32) base).delivered = [.rx .none] := by decide

theorem witness_SamplingTwiceIsIdempotent :
    exec (.rxSample true 5#32) base = .next (did (.rxSample true 5#32) base) := rfl

/-- Pulses at the edges of their windows: on-widths 1301, 601, 101 and 1799, 899, 399, rises as in V47. -/
def edgePulse (wide : Bool) (k : Nat) : Time × Time :=
  let w := if k = 0 then (if wide then 1799 else 1301)
    else if k ≤ 40 ∧ zapFrame.getLsbD (40 - k) = true then (if wide then 899 else 601)
    else (if wide then 399 else 101)
  (after 0#32 (pulseStart k), after 0#32 (pulseStart k + w))

theorem witness_LoopBackAcceptance :
    packetDecode zapFrame base.rx.keyFilter = .ok zapTuple ∧ base.rx.lastLevel = false ∧
    1500 < base.rx.wStartHi.toNat ∧
    ∀ wide : Bool,
      (1300 < ((edgePulse wide 0).2 - (edgePulse wide 0).1).toNat ∧
        ((edgePulse wide 0).2 - (edgePulse wide 0).1).toNat < base.rx.wStartHi.toNat) ∧
      (∀ k < 42, 1 ≤ k →
        if k ≤ 40 ∧ zapFrame.getLsbD (40 - k) = true
        then 600 < ((edgePulse wide k).2 - (edgePulse wide k).1).toNat ∧
          ((edgePulse wide k).2 - (edgePulse wide k).1).toNat < 900
        else 100 < ((edgePulse wide k).2 - (edgePulse wide k).1).toNat ∧
          ((edgePulse wide k).2 - (edgePulse wide k).1).toNat < 400) ∧
      (37000 ≤ ((edgePulse wide 40).2 - (edgePulse wide 0).2).toNat ∧
        ((edgePulse wide 40).2 - (edgePulse wide 0).2).toNat ≤ 42000) := by decide +kernel

/-- No filter, the frame's key as filter, another filter; a first pulse that is a start marker at the window's edges
(low line, `w_start_hi` 1501; high line, risen 301 before or 199 after), and one that is noise or a bit. -/
theorem witness_FrameOnTheWireIsReported :
    ⟨.zap1, 1#2, 4#3, 0x81#8, 0x7E#8⟩ ∈ frameTable ∧ base.rx.keyFilter = 0#16 ∧
    0x1234#16 ≠ 0#16 ∧ 0x1234#16 ≠ 0xABCD#16 ∧ 40 ≤ base.rx.count.toNat ∧ 40 ≤ rxFull.count.toNat ∧
    (1300 < measuredWidth base.rx 500#32 2000#32 ∧
      measuredWidth base.rx 500#32 2000#32 < ({ RxGroup.reset with wStartHi := 1501#12 }).wStartHi.toNat) ∧
    measuredWidth { rx39High with tRise := 201#32 } 500#32 2000#32 = 1799 ∧
    measuredWidth { rx39High with tRise := 699#32 } 500#32 2000#32 = 1301 ∧
    measuredWidth { rx39High with tRise := 200#32 } 500#32 2000#32 = 1800 ∧
    measuredWidth { rx39High with tRise := 1700#32 } 500#32 2000#32 = 300 :=
  ⟨by simp [frameTable], rfl, by decide, by decide, by decide, by decide, by decide, by decide, by decide, by decide,
    by decide⟩

theorem witness_IllegalFrameIsRejectedSilently :
    decode (.frame 0x8000000000#40) = .error .badChannel ∧ decode (.frame 0x83ABCD647E#40) = .error .badMode ∧
    1300 < measuredWidth base.rx base.clock (after base.clock 1500) ∧
    measuredWidth base.rx base.clock (after base.clock 1500) < base.rx.wStartHi.toNat := by decide

theorem witness_SymbolOnTheWire :
    base.rx.lastLevel = false ∧ 1500 < (1501#12).toNat ∧ (1500#12).toNat ≤ 1500 ∧
    (withRx rx39High).rx.lastLevel = true ∧ (did .one (withRx rx39High)).delivered.length = 2 := by decide

theorem witness_CfgWriteWritesOneRegister : 4 ≤ 4 := le_rfl

theorem witness_ConfigurationIsWrittenByCfgWriteAndResetOnly :
    (∀ no v, (.rxRise 7#32 : Instr) ≠ .cfgWrite no v) ∧ (.rxRise 7#32 : Instr) ≠ .reset ∧
    exec (.rxRise 7#32) base = .next (did (.rxRise 7#32) base) ∧
    busyBase.script = [] ∧ step busyBase = .next (onward (step busyBase)) ∧
    { busyBase with script := [.clock 9#32] }.script = [.clock 9#32] :=
  ⟨by intros; simp, by simp, rfl, rfl, rfl, rfl⟩

theorem witness_ReceiveSideIsIndependentOfTheTransmitSide :
    receiveSide .one = true ∧ exec .one base = .next (did .one base) := ⟨rfl, rfl⟩

theorem witness_TransmitSideIsIndependentOfTheReceiveSide :
    transmitSide (.emit zapFrame) = true ∧ (∃ t, exec (.emit zapFrame) base = .next t) ∧
    busyBase.script = [] ∧ step busyBase = .next (onward (step busyBase)) := ⟨rfl, ⟨_, rfl⟩, rfl, rfl⟩

theorem witness_ReceiveInstancesAreIsolated :
    (.rxStart 7#32 : Instr) ≠ .reset ∧ exec (.rxStart 7#32) base = .next (did (.rxStart 7#32) base) :=
  ⟨by simp, rfl⟩

/-- A rise at 2250 in an emission, before its time and after; the fall of a pulse; a session at its check; a call
that waits. -/
theorem witness_DueTransitionsComeBeforeTheClock :
    nextTransitionAt (withTx (txAt 1#6 2250#32 1500#32)) = some 2250#32 ∧ isDue 2250#32 2250#32 ∧
    ¬ isDue (withTx (txAt 1#6 2250#32 1500#32)).clock 2250#32 ∧
    isDue { withTx (txAt 1#6 2250#32 1500#32) with clock := 2300#32 }.clock 2250#32 ∧
    nextTransitionAt (withTx { txAt 1#6 2250#32 3000#32 with out := true }) = some 3000#32 ∧
    nextTransitionAt (withTx (txAt 42#6 43250#32 42500#32)) = some 43250#32 ∧
    nextTransitionAt (drawn 2251#32) = some 2251#32 ∧
    nextTransitionAt (checking 0#32 0#32 false) = some 0#32 ∧
    nextTransitionAt { base with txCalls := [.keepalive] } = some 0#32 := by
  unfold isDue
  decide

/-- Before the first symbol, and in the silence. -/
theorem witness_RequestsToABusyTransmitAgentAreIgnored :
    (withTx (txAt 0#6 0#32 0#32)).tx.sym ≠ 63#6 ∧ (withTx (txAt 42#6 52250#32 42500#32)).tx.sym ≠ 63#6 := by decide

/-- No slot at all; a slot string with a fall, whose calls all give NONE. -/
theorem witness_OtherSlotStringsAreTheirPulses :
    decode (.slots []) = .error .notASymbol ∧ decode (.slots [true, false]) = .error .notASymbol ∧
    (onward (step { base with script := [.call (.slots [true, false])] })).delivered =
      List.replicate 2 (.rx .none) := by decide

/-- A session between two of its emissions; no session and a call that waits, freely and under a clock turn. -/
theorem witness_CallsWaitForThoseBeforeThem :
    (between.tx.sym = 63#6 ∧ between.ses.phase ≠ .idle) ∧
    (base.tx.sym = 63#6 ∧ base.ses.phase = .idle ∧ { base with txCalls := [.keepalive] }.txCalls ≠ []) ∧
    mayPass { base with txCalls := [.keepalive] } 0#32 ∧
    mayPass { base with txCalls := [.keepalive], script := [.clock 0#32] } 0#32 :=
  ⟨by decide, by decide, .inl rfl, mayPass_clock { base with txCalls := [.keepalive] } _⟩

/-- One round, and the most that a budget can ask for. -/
theorem witness_CallsReturnInTheOrderOfInvocation :
    agentIdle base ∧ isCommand 1#3 ∧ isCommand 4#3 ∧ (1#2 ≠ 0#2) ∧ (3#2 ≠ 0#2) ∧ zapFrame.getLsbD 39 = true ∧
    base.draws = [] ∧ base.script = [] ∧ 1 ≤ 2 ^ 31 ∧ 2 ^ 31 ≤ 2 ^ 31 :=
  ⟨⟨rfl, rfl, rfl⟩, .inl rfl, by simp [isCommand], by decide, by decide, by decide, rfl, rfl, by decide, le_rfl⟩

/-- A step in which a call joins, and one in which the first leaves. -/
theorem witness_NoCallOvertakesAnother :
    step { between with script := [.call (.op .keepaliveTick {})] } = .next { between with txCalls := [.keepalive] } ∧
    ∃ t, step { base with txCalls := [.keepalive] } = .next t := ⟨rfl, _, rfl⟩

end Sys2Proof.Tests
end

section
/-!
PROOF. Totality (R13): the meanings that branch in their answer, the calls of a script, every instruction, every step.
-/

namespace Sys2Proof.Machine

open Sys2Proof

/-- DECODE of a frame that passes the three checks hands back the tuple (R130). -/
theorem execDecode_of_ok {f : Frame} {filter : BitVec 16} {d : Tuple} (h : packetDecode f filter = .ok d)
    (s : State) : execDecode f filter s = .next (s.answer [.decoded (some d)] []) := by
  simp [execDecode, h]

/-- DECODE of any other frame hands back no tuple, and the reason of the first check that failed (R130). -/
theorem execDecode_of_error {f : Frame} {filter : BitVec 16} {r : Reason} (h : packetDecode f filter = .error r)
    (s : State) : execDecode f filter s = .next (s.answer [.decoded none] [r]) := by
  simp [execDecode, h]

theorem execDecode_total (f : Frame) (filter : BitVec 16) (s : State) : ∃ t, execDecode f filter s = .next t := by
  cases h : packetDecode f filter with
  | ok d => exact ⟨_, execDecode_of_ok h s⟩
  | error r => exact ⟨_, execDecode_of_error h s⟩

/-- A call of the transmit agent is ignored, waits or takes effect; in each case there is a next state. -/
theorem callTransmit_total (c : TxCall) (s : State) : ∃ t, callTransmit c s = .next t := by
  obtain ⟨-, ignored⟩ | ⟨-, -, waits⟩ | ⟨-, -, begins⟩ := callTransmit_cases c s
  · exact ⟨_, ignored⟩
  · exact ⟨_, waits⟩
  · exact ⟨_, begins⟩

/-- Only DECODE and the calls of the transmit agent branch in their answer; every other meaning is written as a next
state. -/
theorem exec_total (i : Instr) (s : State) : ∃ t, exec i s = .next t := by
  cases i with
  | decode f filter => exact execDecode_total f filter s
  | emit f => exact callTransmit_total (.emit f) s
  | sessionRun cmd sel power budget cancelEn cancel =>
    exact callTransmit_total (.session cmd sel power budget cancelEn cancel) s
  | keepaliveTick => exact callTransmit_total .keepalive s
  | _ => exact ⟨_, rfl⟩

/-- A request that decodes is executed at once (log entry 1). -/
theorem step_call_of_ok {s : State} {r : Request} {rest : List Turn} {i : Instr} (hs : s.script = .call r :: rest)
    (hi : decode r = .ok i) : step s = exec i { s with script := rest } := by
  simp [step, hs, hi]

/-- A request that is no row of the table is received as a waveform, or does nothing (log entry 7). -/
theorem step_call_of_error {s : State} {r : Request} {rest : List Turn} {e : DecodeError}
    (hs : s.script = .call r :: rest) (he : decode r = .error e) :
    step s = .next (receiveUnlisted r { s with script := rest }) := by
  simp [step, hs, he]

/-- A request of the host is the only turn whose next state comes from elsewhere: from `exec`, which is total. -/
theorem step_total (s : State) : ∃ t, step s = .next t := by
  cases hs : s.script with
  | nil => exact ⟨_, step_empty hs⟩
  | cons turn rest =>
    cases turn with
    | call r =>
      cases hr : decode r with
      | ok i => exact step_call_of_ok hs hr ▸ exec_total i _
      | error e => exact ⟨_, step_call_of_error hs hr⟩
    | clock t => exact ⟨_, step_clock hs⟩
    | _ => simp [step, hs]

end Sys2Proof.Machine

namespace Sys2Proof.Claims

open Sys2Proof Sys2Proof.Machine

/-- Settles O5: `exec` is total, instruction by instruction, and so `step` is, turn by turn. -/
theorem everyOperationIsTotal : Obligations.EveryOperationIsTotal :=
  ⟨exec_total, step_total⟩

end Sys2Proof.Claims
end

section
/-!
PROOF. The eight patterns of R93: the instruction decoder finds the row whose bytes 0 and 4 a frame has, and DECODE's
channel and mode checks (R133, R134) pass for the same rows.
-/

namespace Sys2Proof.Machine

open Sys2Proof

/-- The pairs of R85 that name a channel (R133). -/
theorem channelOf_eq_some {a b : BitVec 4} {c : BitVec 2} :
    channelOf a b = some c ↔ a = 0x8#4 ∧ b = 0xE#4 ∧ c = 1#2 ∨ a = 0xF#4 ∧ b = 0x0#4 ∧ c = 2#2 := by
  unfold channelOf
  split_ifs <;> grind

/-- The pairs of R86 that name a command (R134). -/
theorem commandOf_eq_some {a b : BitVec 4} {m : BitVec 3} :
    commandOf a b = some m ↔ a = 0x8#4 ∧ b = 0xE#4 ∧ m = 1#3 ∨ a = 0x4#4 ∧ b = 0xD#4 ∧ m = 2#3 ∨
      a = 0x2#4 ∧ b = 0xB#4 ∧ m = 3#3 ∨ a = 0x1#4 ∧ b = 0x7#4 ∧ m = 4#3 := by
  unfold commandOf
  split_ifs <;> grind

/-- Byte 0 is the channel field and the mode (R80). -/
theorem byteAt_zero (f : Frame) : byteAt f 0 = f.extractLsb' 36 4 ++ f.extractLsb' 32 4 :=
  (BitVec.extractLsb'_append_extractLsb'_eq_extractLsb' (x := f) (len₁ := 4) (len₂ := 4) rfl).symm

/-- Byte 4 is the complements of the mode and of the channel field (R80). -/
theorem byteAt_four (f : Frame) : byteAt f 4 = f.extractLsb' 4 4 ++ f.extractLsb' 0 4 :=
  (BitVec.extractLsb'_append_extractLsb'_eq_extractLsb' (x := f) (len₁ := 4) (len₂ := 4) rfl).symm

end Sys2Proof.Machine

namespace Sys2Proof.Claims

open Sys2Proof Sys2Proof.Machine

/-- The match word of a row of R93. -/
def FrameRow.pattern (r : FrameRow) : Frame := frameOf r.b0 0#16 0#8 r.b4

/-- Bytes 0 and 4 of the frame are those of the row. -/
def FrameRow.Fits (r : FrameRow) (f : Frame) : Prop := byteAt f 0 = r.b0 ∧ byteAt f 4 = r.b4

theorem frameOf_getLsbD (b0 : BitVec 8) (key : BitVec 16) (power b4 : BitVec 8) (i : Nat) :
    (frameOf b0 key power b4).getLsbD i =
      if i < 8 then b4.getLsbD i
      else if i < 16 then power.getLsbD (i - 8)
      else if i < 32 then key.getLsbD (i - 16)
      else b0.getLsbD (i - 32) := by
  show BitVec.getLsbD (w := 8 + 16 + 8 + 8) (b0 ++ key ++ power ++ b4) i = _
  simp only [BitVec.getLsbD_append, Nat.sub_sub]
  split_ifs <;> grind

/-- The mask of R93 keeps bytes 0 and 4. -/
theorem and_frameMask (f : Frame) : f &&& frameMask = frameOf (byteAt f 0) 0#16 0#8 (byteAt f 4) := by
  have mask : ∀ i < 40, frameMask.getLsbD i = (decide (i < 8) || decide (32 ≤ i)) := by decide
  apply BitVec.eq_of_getLsbD_eq
  intro i hi
  rw [BitVec.getLsbD_and, mask i hi, frameOf_getLsbD]
  simp only [byteAt, BitVec.getLsbD_extractLsb', BitVec.getLsbD_zero]
  split_ifs with byte4 power key
  · simp [byte4]
  · simp [byte4, show i < 32 by omega]
  · simp [byte4, key]
  · simp [byte4, show 32 ≤ i by omega, show i - 32 < 8 by omega]

theorem byteAt_frameOf_zero (b0 : BitVec 8) (key : BitVec 16) (power b4 : BitVec 8) :
    byteAt (frameOf b0 key power b4) 0 = b0 := by
  show BitVec.extractLsb' (n := 8 + 16 + 8 + 8) 32 8 (b0 ++ key ++ power ++ b4) = b0
  rw [BitVec.extractLsb'_append_eq_of_le (by decide), BitVec.extractLsb'_append_eq_of_le (by decide),
    BitVec.extractLsb'_append_eq_of_le (by decide)]
  exact BitVec.extractLsb'_eq_self

theorem byteAt_frameOf_four (b0 : BitVec 8) (key : BitVec 16) (power b4 : BitVec 8) :
    byteAt (frameOf b0 key power b4) 4 = b4 :=
  BitVec.extractLsb'_append_eq_right (a := b0 ++ key ++ power)

/-- A row's pattern matches a frame when their bytes 0 and 4 agree. -/
theorem and_frameMask_eq_pattern {f : Frame} {r : FrameRow} : f &&& frameMask = r.pattern ↔ r.Fits f := by
  rw [and_frameMask, FrameRow.pattern, FrameRow.Fits]
  constructor
  · intro h
    have h0 := congrArg (byteAt · 0) h
    have h4 := congrArg (byteAt · 4) h
    simp only [byteAt_frameOf_zero, byteAt_frameOf_four] at h0 h4
    exact ⟨h0, h4⟩
  · rintro ⟨h0, h4⟩
    rw [h0, h4]

/-- The bytes of a row pass the channel and mode checks, with the row's codes. -/
theorem frameTable_checks : ∀ r ∈ frameTable,
    channelOf (r.b0.extractLsb' 4 4) (r.b4.extractLsb' 0 4) = some r.chan ∧
      commandOf (r.b0.extractLsb' 0 4) (r.b4.extractLsb' 4 4) = some r.cmd := by
  decide

/-- DECODE's channel and mode checks pass, with these codes, for the frames that fit a row with these codes. -/
theorem checks_pass_iff {f : Frame} {chan : BitVec 2} {cmd : BitVec 3} :
    channelOf (f.extractLsb' 36 4) (f.extractLsb' 0 4) = some chan ∧
      commandOf (f.extractLsb' 32 4) (f.extractLsb' 4 4) = some cmd ↔
    ∃ r ∈ frameTable, r.Fits f ∧ r.chan = chan ∧ r.cmd = cmd := by
  constructor
  · rintro ⟨hc, hm⟩
    simp only [FrameRow.Fits, byteAt_zero, byteAt_four]
    rcases channelOf_eq_some.mp hc with ⟨ha, hb, rfl⟩ | ⟨ha, hb, rfl⟩ <;>
      rcases commandOf_eq_some.mp hm with ⟨ha', hb', rfl⟩ | ⟨ha', hb', rfl⟩ | ⟨ha', hb', rfl⟩ | ⟨ha', hb', rfl⟩ <;>
      simp [frameTable, ha, hb, ha', hb']
  · rintro ⟨r, hr, ⟨h0, h4⟩, rfl, rfl⟩
    have checks := frameTable_checks r hr
    rwa [← h0, ← h4, byteAt_zero, byteAt_four, BitVec.extractLsb'_append_eq_left, BitVec.extractLsb'_append_eq_right,
      BitVec.extractLsb'_append_eq_left, BitVec.extractLsb'_append_eq_right] at checks

/-- DECODE accepts a frame that passes the filter and fits a row, with that row's channel and command (R130). -/
theorem packetDecode_ok_iff {f : Frame} {filter : BitVec 16} {d : Tuple} :
    packetDecode f filter = .ok d ↔ (filter = 0#16 ∨ f.extractLsb' 16 16 = filter) ∧
      ∃ r ∈ frameTable, r.Fits f ∧ d = ⟨f.extractLsb' 16 16, r.chan, r.cmd, f.extractLsb' 8 8⟩ := by
  constructor
  · intro h
    obtain ⟨hk, hc, hm, key, power⟩ := packetDecode_ok h
    obtain ⟨r, hr, fits, chan, cmd⟩ := checks_pass_iff.mp ⟨hc, hm⟩
    exact ⟨hk, r, hr, fits, by rw [chan, cmd, ← key, ← power]⟩
  · rintro ⟨hk, r, hr, fits, rfl⟩
    obtain ⟨hc, hm⟩ := checks_pass_iff.mpr ⟨r, hr, fits, rfl, rfl⟩
    exact packetDecode_eq_ok hk hc hm

/-- The decoder's rows are the table of R93. -/
theorem frameRows_eq : frameRows = frameTable.map fun r => (r.pattern, r.instr) := rfl

theorem patterns_nodup : (frameTable.map FrameRow.pattern).Nodup := by decide

/-- The decoder's search finds every row that fits, since no two rows have one pattern. -/
theorem find_frameTable_iff {f : Frame} {r : FrameRow} :
    frameTable.find? (fun r => f &&& frameMask == r.pattern) = some r ↔ r ∈ frameTable ∧ r.Fits f := by
  constructor
  · intro h
    exact ⟨List.mem_of_find?_eq_some h, and_frameMask_eq_pattern.mp (by simpa using List.find?_some h)⟩
  · rintro ⟨hr, fits⟩
    have hp := and_frameMask_eq_pattern.mpr fits
    cases h : frameTable.find? (fun r => f &&& frameMask == r.pattern) with
    | none => exact absurd hp (by simpa using List.find?_eq_none.mp h r hr)
    | some q =>
      have hq : f &&& frameMask = q.pattern := by simpa using List.find?_some h
      exact congrArg some (List.inj_on_of_nodup_map patterns_nodup (List.mem_of_find?_eq_some h) hr (hq.symm.trans hp))

/-- The instruction decoder answers with the row that fits, its key and power read from the frame. -/
theorem decodeFrame_eq_ok_iff {f : Frame} {i : Instr} :
    decodeFrame f = .ok i ↔
      ∃ r ∈ frameTable, r.Fits f ∧ i = r.instr (f.extractLsb' 16 16) (f.extractLsb' 8 8) := by
  simp only [← and_assoc, ← find_frameTable_iff]
  rw [decodeFrame, frameRows_eq, List.find?_map, Function.comp_def]
  cases frameTable.find? (fun r => f &&& frameMask == r.pattern) with
  | none =>
    simp only [Option.map_none]
    split <;> simp
  | some r => simp [frameKey, framePower, eq_comm]

/-- R87 for the eight rows. -/
theorem frameTable_byte4 : ∀ r ∈ frameTable, ∀ i < 8, r.b4.getLsbD i = !r.b0.getLsbD (7 - i) := by decide

/-- Settles O14: an accepted frame fits a row of R93, and every row has the relation of R87. -/
theorem byte4IsByte0ReversedAndInverted : Obligations.Byte4IsByte0ReversedAndInverted := by
  intro f d h
  obtain ⟨-, r, hr, ⟨h0, h4⟩, -⟩ := packetDecode_ok_iff.mp h
  rw [h0, h4]
  exact frameTable_byte4 r hr

/-- Settles O15: both DECODE and the instruction decoder look for the row that fits. -/
theorem eightPatternsAreWhatDecodeAccepts : Obligations.EightPatternsAreWhatDecodeAccepts := by
  have matches_iff (f : Frame) (r : FrameRow) :
      f &&& 0xFF000000FF#40 = frameOf r.b0 0#16 0#8 r.b4 ↔ r.Fits f := and_frameMask_eq_pattern
  unfold Obligations.EightPatternsAreWhatDecodeAccepts
  simp only [matches_iff]
  refine ⟨fun f filter => ?_, fun f i => decodeFrame_eq_ok_iff, List.pairwise_map.mp patterns_nodup⟩
  constructor
  · rintro ⟨d, h⟩
    obtain ⟨hk, r, hr, fits, -⟩ := packetDecode_ok_iff.mp h
    exact ⟨⟨r, hr, fits⟩, hk⟩
  · rintro ⟨⟨r, hr, fits⟩, hk⟩
    exact ⟨_, packetDecode_ok_iff.mpr ⟨hk, r, hr, fits, rfl⟩⟩

end Sys2Proof.Claims
end

section
/-!
PROOF. ENCODE: which operands are valid, what it answers to them, and the reasons when they are not (R120, R129).
-/

namespace Sys2Proof.Machine

open Sys2Proof Sys2Proof.Claims

/-- The codes of R85. -/
theorem channelCode_eq_some {chan : BitVec 2} {c : BitVec 3 × BitVec 3} :
    channelCode chan = some c ↔ chan = 1#2 ∧ c = (0b000#3, 0b111#3) ∨ chan = 2#2 ∧ c = (0b111#3, 0b000#3) := by
  unfold channelCode
  split_ifs <;> grind

/-- The codes of R86. -/
theorem modeCode_eq_some {cmd : BitVec 3} {m : BitVec 4 × BitVec 4} :
    modeCode cmd = some m ↔
      cmd = 1#3 ∧ m = (0b1000#4, 0b1110#4) ∨ cmd = 2#3 ∧ m = (0b0100#4, 0b1101#4) ∨
      cmd = 3#3 ∧ m = (0b0010#4, 0b1011#4) ∨ cmd = 4#3 ∧ m = (0b0001#4, 0b0111#4) := by
  unfold modeCode
  split_ifs <;> grind

theorem channelCode_isSome {chan : BitVec 2} : (channelCode chan).isSome = true ↔ isChannel chan := by
  simp [Option.isSome_iff_exists, channelCode_eq_some, isChannel, exists_or]

theorem modeCode_isSome {cmd : BitVec 3} : (modeCode cmd).isSome = true ↔ isCommand cmd := by
  simp [Option.isSome_iff_exists, modeCode_eq_some, isCommand, exists_or]

/-- ENCODE answers valid operands with the frame of their codes. -/
theorem packetEncode_of_codes {key : BitVec 16} {chan : BitVec 2} {cmd : BitVec 3} {power : BitVec 8}
    {c : BitVec 3 × BitVec 3} {m : BitVec 4 × BitVec 4} (hc : channelCode chan = some c) (hm : modeCode cmd = some m) :
    packetEncode key chan cmd power = (assemble c.1 m.1 key power m.2 c.2, true) := by
  simp only [packetEncode, hc, hm]

/-- ENCODE is valid exactly for the channels of R94 and the commands of R95. -/
theorem packetEncode_valid_iff {key : BitVec 16} {chan : BitVec 2} {cmd : BitVec 3} {power : BitVec 8} :
    (packetEncode key chan cmd power).2 = true ↔ isChannel chan ∧ isCommand cmd := by
  rw [← channelCode_isSome, ← modeCode_isSome]
  rcases packetEncode_cases key chan cmd power with ⟨h, noCode | noCode⟩ | ⟨c, m, hc, hm, h⟩
  · simp [h, noCode]
  · simp [h, noCode]
  · simp [h, hc, hm]

/-- The sentinel of R88 answers every other operand. -/
theorem packetEncode_invalid {chan : BitVec 2} {cmd : BitVec 3} (h : ¬ (isChannel chan ∧ isCommand cmd))
    (key : BitVec 16) (power : BitVec 8) : packetEncode key chan cmd power = (0#40, false) := by
  rcases packetEncode_cases key chan cmd power with ⟨sentinel, -⟩ | ⟨c, m, -, -, assembled⟩
  · exact sentinel
  · exact absurd (packetEncode_valid_iff.mp (congrArg Prod.snd assembled)) h

/-- The parameter errors of R231, by the operands' values. -/
theorem encodeReasons_eq : ∀ (chan : BitVec 2) (cmd : BitVec 3), encodeReasons chan cmd =
    (if chan = 0#2 ∨ chan = 3#2 then [.invalidChannel] else []) ++
      (if cmd = 0#3 ∨ cmd = 5#3 ∨ cmd = 6#3 ∨ cmd = 7#3 then [.invalidCommand] else []) := by
  decide

theorem encodeReasons_of_valid {chan : BitVec 2} {cmd : BitVec 3} (hc : isChannel chan) (hm : isCommand cmd) :
    encodeReasons chan cmd = [] := by
  simp [encodeReasons, channelCode_isSome.mpr hc, modeCode_isSome.mpr hm]

/-- ENCODE in any state: its answer is handed back and nothing else changes (R120). -/
theorem execEncode_eq {key : BitVec 16} {chan : BitVec 2} {cmd : BitVec 3} {power : BitVec 8} {f : Frame}
    {valid : Bool} (h : packetEncode key chan cmd power = (f, valid)) (s : State) :
    exec (.encode key chan cmd power) s =
      .next { s with delivered := [.encoded f valid], reasons := encodeReasons chan cmd } := by
  show execEncode key chan cmd power s = _
  rw [execEncode, h]
  rfl

end Sys2Proof.Machine

namespace Sys2Proof.Claims

open Sys2Proof Sys2Proof.Machine

/-- Settles O8: the codes of valid operands are those of the tables, and every other operand gives the sentinel. -/
theorem encodeAssemblesTheFrame : Obligations.EncodeAssemblesTheFrame := by
  intro key chan cmd power s
  constructor
  · intro hc hm
    obtain ⟨c, chanCodes⟩ := Option.isSome_iff_exists.mp (channelCode_isSome.mpr hc)
    obtain ⟨⟨mode, modec⟩, cmdCodes⟩ := Option.isSome_iff_exists.mp (modeCode_isSome.mpr hm)
    have c_eq : c = (if chan = 1#2 then 0b000#3 else 0b111#3, if chan = 1#2 then 0b111#3 else 0b000#3) := by
      rcases channelCode_eq_some.mp chanCodes with ⟨rfl, rfl⟩ | ⟨rfl, rfl⟩ <;> rfl
    refine ⟨mode, modec, by simpa using modeCode_eq_some.mp cmdCodes, ?_⟩
    rw [execEncode_eq (packetEncode_of_codes chanCodes cmdCodes), encodeReasons_of_valid hc hm, c_eq]
    rfl
  · intro h
    rw [execEncode_eq (packetEncode_invalid h key power), encodeReasons_eq]

end Sys2Proof.Claims
end

section
/-!
PROOF. DECODE: the key, channel and mode checks in their order, and the tuple (R130 to R135).
-/

namespace Sys2Proof.Machine

open Sys2Proof

theorem channelOf_eq_none {a b : BitVec 4} :
    channelOf a b = none ↔ ¬ (a = 0x8#4 ∧ b = 0xE#4) ∧ ¬ (a = 0xF#4 ∧ b = 0x0#4) := by
  unfold channelOf
  split_ifs <;> grind

theorem commandOf_eq_none {a b : BitVec 4} :
    commandOf a b = none ↔ ¬ (a = 0x8#4 ∧ b = 0xE#4) ∧ ¬ (a = 0x4#4 ∧ b = 0xD#4) ∧ ¬ (a = 0x2#4 ∧ b = 0xB#4) ∧
      ¬ (a = 0x1#4 ∧ b = 0x7#4) := by
  unfold commandOf
  split_ifs <;> grind

/-- The key check fails under a filter that is not the key (R132). -/
theorem keyCheck_fails_iff {key filter : BitVec 16} :
    filter ≠ Config.keyAny ∧ key ≠ filter ↔ ¬ (filter = 0#16 ∨ key = filter) := not_or.symm

/-- The first check (R132). -/
theorem packetDecode_keyMismatch {f : Frame} {filter : BitVec 16}
    (hk : ¬ (filter = 0#16 ∨ f.extractLsb' 16 16 = filter)) : packetDecode f filter = .error .keyMismatch := by
  rw [packetDecode, if_pos (keyCheck_fails_iff.mpr hk)]

/-- The second check (R133). -/
theorem packetDecode_badChannel {f : Frame} {filter : BitVec 16}
    (hk : filter = 0#16 ∨ f.extractLsb' 16 16 = filter)
    (hc : channelOf (f.extractLsb' 36 4) (f.extractLsb' 0 4) = none) :
    packetDecode f filter = .error .badChannel := by
  rw [packetDecode, if_neg (mt keyCheck_fails_iff.mp (not_not.mpr hk)), hc]

/-- The third check (R134). -/
theorem packetDecode_badMode {f : Frame} {filter : BitVec 16} {chan : BitVec 2}
    (hk : filter = 0#16 ∨ f.extractLsb' 16 16 = filter)
    (hc : channelOf (f.extractLsb' 36 4) (f.extractLsb' 0 4) = some chan)
    (hm : commandOf (f.extractLsb' 32 4) (f.extractLsb' 4 4) = none) :
    packetDecode f filter = .error .badMode := by
  simp only [packetDecode, if_neg (mt keyCheck_fails_iff.mp (not_not.mpr hk)), hc, hm]

end Sys2Proof.Machine

namespace Sys2Proof.Claims

open Sys2Proof Sys2Proof.Machine

/-- Settles O11: one law of `packetDecode` for each outcome, carried through `exec`. -/
theorem decodeChecksKeyThenChannelThenMode : Obligations.DecodeChecksKeyThenChannelThenMode := by
  intro f filter s key mode modec one two keyOk rejected
  refine ⟨fun hk => ?_, fun hk h1 h2 => ?_, fun hk hc m1 m2 m3 m4 => ?_, fun chan cmd hk hc hm => ?_⟩
  · exact execDecode_of_error (packetDecode_keyMismatch hk) s
  · exact execDecode_of_error (packetDecode_badChannel hk (channelOf_eq_none.mpr ⟨h1, h2⟩)) s
  · have noMode := commandOf_eq_none.mpr ⟨m1, m2, m3, m4⟩
    rcases hc with ⟨ha, hb⟩ | ⟨ha, hb⟩
    · exact execDecode_of_error (packetDecode_badMode hk (channelOf_eq_some.mpr (.inl ⟨ha, hb, rfl⟩)) noMode) s
    · exact execDecode_of_error (packetDecode_badMode hk (channelOf_eq_some.mpr (.inr ⟨ha, hb, rfl⟩)) noMode) s
  · simp only [one, two, and_assoc] at hc
    exact execDecode_of_ok (packetDecode_eq_ok hk (channelOf_eq_some.mpr hc) (commandOf_eq_some.mpr hm)) s

end Sys2Proof.Claims
end

section
/-!
PROOF. ENCODE and DECODE by the table of R93: ENCODE writes the row of its operands, DECODE reads it back.
-/

namespace Sys2Proof.Claims

open Sys2Proof Sys2Proof.Machine

/-- The rows are the valid operands of ENCODE. -/
theorem exists_row_iff {chan : BitVec 2} {cmd : BitVec 3} :
    (∃ r ∈ frameTable, r.chan = chan ∧ r.cmd = cmd) ↔ isChannel chan ∧ isCommand cmd := by
  constructor
  · rintro ⟨r, hr, rfl, rfl⟩
    have valid : ∀ r ∈ frameTable, (r.chan = 1#2 ∨ r.chan = 2#2) ∧
        (r.cmd = 1#3 ∨ r.cmd = 2#3 ∨ r.cmd = 3#3 ∨ r.cmd = 4#3) := by decide
    exact valid r hr
  · rintro ⟨rfl | rfl, rfl | rfl | rfl | rfl⟩ <;> decide

/-- An assembled frame by its bytes: the fields around key and power make up bytes 0 and 4 (R80). -/
theorem assemble_eq_frameOf (chc : BitVec 3) (mode : BitVec 4) (key : BitVec 16) (power : BitVec 8)
    (modec : BitVec 4) (chcc : BitVec 3) :
    assemble chc mode key power modec chcc = frameOf (1#1 ++ chc ++ mode) key power (modec ++ chcc ++ 0#1) := by
  show (1#1 ++ chc ++ mode ++ key ++ power ++ modec ++ chcc ++ 0#1 : BitVec (1 + 3 + 4 + 16 + 8 + 4 + 3 + 1)) =
    1#1 ++ chc ++ mode ++ key ++ power ++ (modec ++ chcc ++ 0#1)
  simp only [BitVec.append_assoc, BitVec.cast_eq]

/-- A row's bytes are made of the codes of its channel and command (R85, R86). -/
theorem frameTable_codes : ∀ r ∈ frameTable,
    channelCode r.chan = some (r.b0.extractLsb' 4 3, r.b4.extractLsb' 1 3) ∧
    modeCode r.cmd = some (r.b0.extractLsb' 0 4, r.b4.extractLsb' 4 4) ∧
    1#1 ++ r.b0.extractLsb' 4 3 ++ r.b0.extractLsb' 0 4 = r.b0 ∧
    r.b4.extractLsb' 4 4 ++ r.b4.extractLsb' 1 3 ++ 0#1 = r.b4 := by
  decide

/-- ENCODE of a row's channel and command gives the row's bytes around key and power. -/
theorem packetEncode_row {r : FrameRow} (hr : r ∈ frameTable) (key : BitVec 16) (power : BitVec 8) :
    packetEncode key r.chan r.cmd power = (frameOf r.b0 key power r.b4, true) := by
  obtain ⟨hc, hm, h0, h4⟩ := frameTable_codes r hr
  rw [packetEncode_of_codes hc hm, assemble_eq_frameOf, h0, h4]

/-- The operands of a valid ENCODE are a row's. -/
theorem exists_row_of_valid {key : BitVec 16} {chan : BitVec 2} {cmd : BitVec 3} {power : BitVec 8}
    (h : (packetEncode key chan cmd power).2 = true) : ∃ r ∈ frameTable, r.chan = chan ∧ r.cmd = cmd :=
  exists_row_iff.mpr (packetEncode_valid_iff.mp h)

@[simp] theorem key_frameOf (b0 : BitVec 8) (key : BitVec 16) (power b4 : BitVec 8) :
    (frameOf b0 key power b4).extractLsb' 16 16 = key := by
  apply BitVec.eq_of_getLsbD_eq
  intro i hi
  simp [frameOf_getLsbD, hi, show ¬ 16 + i < 8 by omega, show 16 + i < 32 by omega]

@[simp] theorem power_frameOf (b0 : BitVec 8) (key : BitVec 16) (power b4 : BitVec 8) :
    (frameOf b0 key power b4).extractLsb' 8 8 = power := by
  apply BitVec.eq_of_getLsbD_eq
  intro i hi
  simp [frameOf_getLsbD, hi, show 8 + i < 16 by omega]

/-- A frame is its bytes 0 and 4, key and power. -/
theorem frameOf_fields (f : Frame) :
    frameOf (byteAt f 0) (f.extractLsb' 16 16) (f.extractLsb' 8 8) (byteAt f 4) = f := by
  apply BitVec.eq_of_getLsbD_eq
  intro i hi
  rw [frameOf_getLsbD]
  simp only [byteAt, BitVec.getLsbD_extractLsb']
  split_ifs with byte4 power key
  · simp [byte4]
  · simp [show i - 8 < 8 by omega, show 8 + (i - 8) = i by omega]
  · simp [show i - 16 < 16 by omega, show 16 + (i - 16) = i by omega]
  · simp [show i - 32 < 8 by omega, show 32 + (i - 32) = i by omega]

theorem fits_frameOf (r : FrameRow) (key : BitVec 16) (power : BitVec 8) :
    r.Fits (frameOf r.b0 key power r.b4) :=
  ⟨byteAt_frameOf_zero .., byteAt_frameOf_four ..⟩

/-- DECODE of a row's frame, with no filter or its key as filter, gives the row's channel and command. -/
theorem packetDecode_row {r : FrameRow} (hr : r ∈ frameTable) {key filter : BitVec 16}
    (hk : filter = 0#16 ∨ key = filter) (power : BitVec 8) :
    packetDecode (frameOf r.b0 key power r.b4) filter = .ok ⟨key, r.chan, r.cmd, power⟩ :=
  packetDecode_ok_iff.mpr ⟨by rwa [key_frameOf], r, hr, fits_frameOf r key power, by simp⟩

/-- Settles O10: both directions through the row. -/
theorem eightFrameTypes : Obligations.EightFrameTypes := by
  intro r hr key power s
  obtain ⟨hc, hm⟩ := exists_row_iff.mp ⟨r, hr, rfl, rfl⟩
  constructor
  · rw [execEncode_eq (packetEncode_row hr key power), encodeReasons_of_valid hc hm]
  · exact execDecode_of_ok (packetDecode_row hr (.inl rfl) power) s

/-- DECODE of a valid ENCODE is its operands (R136). -/
theorem packetDecode_packetEncode {key filter : BitVec 16} {chan : BitVec 2} {cmd : BitVec 3} {power : BitVec 8}
    (valid : (packetEncode key chan cmd power).2 = true) (hk : filter = 0#16 ∨ key = filter) :
    packetDecode (packetEncode key chan cmd power).1 filter = .ok ⟨key, chan, cmd, power⟩ := by
  obtain ⟨r, hr, rfl, rfl⟩ := exists_row_of_valid valid
  rw [packetEncode_row hr]
  exact packetDecode_row hr hk power

/-- ENCODE of what DECODE read in a frame is that frame (R136). -/
theorem packetEncode_of_packetDecode {f : Frame} {filter : BitVec 16} {d : Tuple} (h : packetDecode f filter = .ok d) :
    packetEncode d.key d.chan d.cmd d.power = (f, true) := by
  obtain ⟨-, r, hr, ⟨h0, h4⟩, rfl⟩ := packetDecode_ok_iff.mp h
  rw [packetEncode_row hr, ← h0, ← h4, frameOf_fields]

/-- An accepted frame is determined by its tuple. -/
theorem packetDecode_inj {f g : Frame} {filter filter' : BitVec 16} {d : Tuple} (h : packetDecode f filter = .ok d)
    (h' : packetDecode g filter' = .ok d) : f = g :=
  congrArg Prod.fst ((packetEncode_of_packetDecode h).symm.trans (packetEncode_of_packetDecode h'))

/-- Settles O12: the round trip and its converse. -/
theorem encodeDecodeRoundTrip : Obligations.EncodeDecodeRoundTrip := by
  refine ⟨fun key chan cmd power hc hm => ?_, fun f d h => packetEncode_of_packetDecode h⟩
  have valid := packetEncode_valid_iff (key := key) (power := power).mpr ⟨hc, hm⟩
  exact ⟨packetDecode_packetEncode valid (.inl rfl), packetDecode_packetEncode valid (.inr rfl)⟩

/-- The fixed bits of R80 in the eight rows. -/
theorem frameTable_fixedBits : ∀ r ∈ frameTable, r.b0.getLsbD 7 = true ∧ r.b4.getLsbD 0 = false := by decide

/-- Settles O9: a valid frame is a row's; and since DECODE reads the operands back, equal frames have equal ones. -/
theorem encodeProperties : Obligations.EncodeProperties := by
  refine ⟨fun key chan cmd power => ⟨packetEncode_valid_iff, fun valid => ?_⟩,
    fun key key' chan chan' cmd cmd' power power' valid valid' same => ?_⟩
  · obtain ⟨r, hr, rfl, rfl⟩ := exists_row_of_valid valid
    obtain ⟨first, last⟩ := frameTable_fixedBits r hr
    rw [packetEncode_row hr]
    exact ⟨(frameOf_getLsbD ..).trans first, (frameOf_getLsbD ..).trans last, key_frameOf .., power_frameOf .., r,
      hr, fits_frameOf r key power⟩
  · have tuples := packetDecode_packetEncode valid (.inl rfl)
    rw [same, packetDecode_packetEncode valid' (.inl rfl)] at tuples
    cases tuples
    exact ⟨rfl, rfl, rfl, rfl⟩

end Sys2Proof.Claims
end

section
/-!
PROOF. Bit flips (R137). Bytes 0 and 4 of an accepted frame are the pattern of a row, and two patterns are equal or at
least four bits apart; a flip elsewhere leaves the pattern as it is.
-/

namespace Sys2Proof.Claims

open Sys2Proof Sys2Proof.Machine

/-- Flipping bits `e` of a frame flips, in its bytes 0 and 4, the bits of `e` there. -/
theorem xor_and_frameMask (f e : Frame) : (f ^^^ e) &&& frameMask = (f &&& frameMask) ^^^ (e &&& frameMask) := by
  apply BitVec.eq_of_getLsbD_eq
  intro i _
  simp [Bool.and_xor_distrib_right]

/-- Any two rows are of one type or have patterns at least four bits apart. -/
theorem patterns_distance : ∀ r ∈ frameTable, ∀ q ∈ frameTable,
    4 ≤ ones (r.pattern ^^^ q.pattern) ∨ r.chan = q.chan ∧ r.cmd = q.cmd ∧ r.pattern = q.pattern := by
  decide

/-- The flips in bytes 0 and 4 that lead from one accepted frame to another: none, or at least four. -/
theorem flips_between_accepted {f e : Frame} {filter filter' : BitVec 16} {d d' : Tuple}
    (h : packetDecode f filter = .ok d) (h' : packetDecode (f ^^^ e) filter' = .ok d') :
    4 ≤ ones (e &&& frameMask) ∨ d.chan = d'.chan ∧ d.cmd = d'.cmd ∧ e &&& frameMask = 0#40 := by
  obtain ⟨-, r, hr, fits, rfl⟩ := packetDecode_ok_iff.mp h
  obtain ⟨-, q, hq, fits', rfl⟩ := packetDecode_ok_iff.mp h'
  have flipped : r.pattern ^^^ q.pattern = e &&& frameMask := by
    rw [← and_frameMask_eq_pattern.mpr fits, ← and_frameMask_eq_pattern.mpr fits', xor_and_frameMask, ← BitVec.xor_assoc,
      BitVec.xor_self, BitVec.zero_xor]
  rw [← flipped, BitVec.xor_eq_zero_iff]
  exact patterns_distance r hr q hq

/-- One bit of byte 0 or byte 4, alone under the mask. -/
theorem ones_flip_masked : ∀ i < 40, i < 8 ∨ 32 ≤ i → ones ((1#40 <<< i) &&& frameMask) = 1 := by decide

/-- One flip in byte 0 or byte 4 is fewer than four and more than none, so DECODE rejects. -/
theorem packetDecode_flip_rejected {f : Frame} {d : Tuple} (h : packetDecode f 0#16 = .ok d) {i : Nat} (hi : i < 40)
    (outer : i < 8 ∨ 32 ≤ i) (filter : BitVec 16) : ∃ r, packetDecode (f ^^^ (1#40 <<< i)) filter = .error r := by
  cases h' : packetDecode (f ^^^ (1#40 <<< i)) filter with
  | error r => exact ⟨r, rfl⟩
  | ok d' =>
    have one := ones_flip_masked i hi outer
    rcases flips_between_accepted h h' with four | ⟨-, -, zero⟩
    · omega
    · rw [zero] at one
      exact absurd one (by decide)

/-- Flips that turn the pattern of an accepted frame into a row's give a frame that DECODE accepts with that row's
channel and command. -/
theorem packetDecode_xor {f e : Frame} {filter : BitVec 16} {r q : FrameRow} (fits : r.Fits f) (hq : q ∈ frameTable)
    (pattern : q.pattern = r.pattern ^^^ (e &&& frameMask))
    (hk : filter = 0#16 ∨ (f ^^^ e).extractLsb' 16 16 = filter) :
    packetDecode (f ^^^ e) filter = .ok ⟨(f ^^^ e).extractLsb' 16 16, q.chan, q.cmd, (f ^^^ e).extractLsb' 8 8⟩ := by
  have fits' : q.Fits (f ^^^ e) :=
    and_frameMask_eq_pattern.mp (by rw [xor_and_frameMask, and_frameMask_eq_pattern.mpr fits, pattern])
  exact packetDecode_ok_iff.mpr ⟨hk, q, hq, fits', rfl⟩

/-- Flips outside bytes 0 and 4 keep channel and command. -/
theorem packetDecode_xor_inner {f e : Frame} {filter : BitVec 16} {d : Tuple} (h : packetDecode f 0#16 = .ok d)
    (inner : e &&& frameMask = 0#40) (hk : filter = 0#16 ∨ (f ^^^ e).extractLsb' 16 16 = filter) :
    packetDecode (f ^^^ e) filter = .ok ⟨(f ^^^ e).extractLsb' 16 16, d.chan, d.cmd, (f ^^^ e).extractLsb' 8 8⟩ := by
  obtain ⟨-, r, hr, fits, rfl⟩ := packetDecode_ok_iff.mp h
  exact packetDecode_xor fits hr (by rw [inner, BitVec.xor_zero]) hk

/-- A bit of bytes 1 to 3 is outside the mask, and no flip is no change; it is a bit of the key from 16 on. -/
theorem flip_inner : ∀ i < 32, 8 ≤ i → (1#40 <<< i) &&& frameMask = 0#40 ∧ 1#40 <<< i ≠ 0#40 ∧
    ((1#40 <<< i).extractLsb' 16 16 = 0#16 ↔ i < 16) := by
  decide

theorem key_flip_eq {f : Frame} {i : Nat} (h8 : 8 ≤ i) (h32 : i < 32) :
    (f ^^^ (1#40 <<< i)).extractLsb' 16 16 = f.extractLsb' 16 16 ↔ i < 16 := by
  rw [BitVec.extractLsb'_xor, ← (flip_inner i h32 h8).2.2]
  exact ⟨fun h => by simpa using congrArg (f.extractLsb' 16 16 ^^^ ·) h, fun h => by rw [h, BitVec.xor_zero]⟩

/-- The six flips that swap the channels turn a row's pattern into that of the other channel's row. -/
theorem exists_row_swapped : ∀ r ∈ frameTable, ∃ q ∈ frameTable,
    q.pattern = r.pattern ^^^ (0x700000000E#40 &&& frameMask) ∧ q.chan = ~~~ r.chan ∧ q.cmd = r.cmd := by
  decide

theorem packetDecode_swap {f : Frame} {d : Tuple} (h : packetDecode f 0#16 = .ok d) :
    packetDecode (f ^^^ 0x700000000E#40) 0#16 = .ok { d with chan := ~~~ d.chan } := by
  obtain ⟨-, r, hr, fits, rfl⟩ := packetDecode_ok_iff.mp h
  obtain ⟨q, hq, pattern, chan, cmd⟩ := exists_row_swapped r hr
  have key : (0x700000000E#40).extractLsb' 16 16 = 0#16 := by decide
  have power : (0x700000000E#40).extractLsb' 8 8 = 0#8 := by decide
  rw [packetDecode_xor fits hq pattern (.inl rfl), BitVec.extractLsb'_xor, BitVec.extractLsb'_xor, key, power, chan, cmd,
    BitVec.xor_zero, BitVec.xor_zero]

/-- The two frames of one key and power differ in bytes 0 and 4 alone. -/
theorem frameOf_xor_same (b0 b0' : BitVec 8) (key : BitVec 16) (power b4 b4' : BitVec 8) :
    frameOf b0 key power b4 ^^^ frameOf b0' key power b4' = frameOf (b0 ^^^ b0') 0#16 0#8 (b4 ^^^ b4') := by
  show (b0 ++ key ++ power ++ b4 ^^^ b0' ++ key ++ power ++ b4' : BitVec (8 + 16 + 8 + 8)) = _
  rw [BitVec.xor_append, BitVec.xor_append, BitVec.xor_append, BitVec.xor_self, BitVec.xor_self]
  rfl

/-- LED and BEEP of channel 1 are at the distance four. -/
theorem ones_led_xor_beep (key : BitVec 16) (power : BitVec 8) :
    ones ((packetEncode key 1#2 1#3 power).1 ^^^ (packetEncode key 1#2 2#3 power).1) = 4 := by
  have led := packetEncode_row (r := ⟨.led1, 1#2, 1#3, 0x88#8, 0xEE#8⟩) (by simp [frameTable]) key power
  have beep := packetEncode_row (r := ⟨.beep1, 1#2, 2#3, 0x84#8, 0xDE#8⟩) (by simp [frameTable]) key power
  rw [led, beep, frameOf_xor_same]
  decide

/-- One flip in bytes 1 to 3 gives another accepted frame, of the same channel and command; with the old key as
filter, a flip in the power byte passes. -/
theorem packetDecode_flip_accepted {f : Frame} {d : Tuple} (h : packetDecode f 0#16 = .ok d) {i : Nat} (h8 : 8 ≤ i)
    (h32 : i < 32) : ∃ d', packetDecode (f ^^^ (1#40 <<< i)) 0#16 = .ok d' ∧ d' ≠ d ∧ d'.chan = d.chan ∧
      d'.cmd = d.cmd ∧ (i < 16 → packetDecode (f ^^^ (1#40 <<< i)) d.key = .ok d') := by
  obtain ⟨inner, change, -⟩ := flip_inner i h32 h8
  obtain ⟨-, -, -, key, -⟩ := packetDecode_ok h
  have accepted := packetDecode_xor_inner h inner (.inl rfl)
  refine ⟨_, accepted, fun same => ?_, rfl, rfl, fun h16 => ?_⟩
  · have unchanged : f ^^^ (1#40 <<< i) = f := packetDecode_inj (same ▸ accepted) h
    exact change ((BitVec.xor_right_inj f).mp (unchanged.trans BitVec.xor_zero.symm))
  · exact packetDecode_xor_inner h inner (.inr (key ▸ (key_flip_eq h8 h32).mpr h16))

/-- One flip in the key fails the key check, when the old key is the filter. -/
theorem packetDecode_flip_key {f : Frame} {d : Tuple} (h : packetDecode f 0#16 = .ok d) {i : Nat} (h16 : 16 ≤ i)
    (h32 : i < 32) (paired : d.key ≠ 0#16) : packetDecode (f ^^^ (1#40 <<< i)) d.key = .error .keyMismatch := by
  obtain ⟨-, -, -, key, -⟩ := packetDecode_ok h
  apply packetDecode_keyMismatch
  rintro (any | same)
  · exact paired any
  · have := (key_flip_eq (by omega) h32).mp (same.trans key)
    omega

/-- Two accepted frames of different type are at least four bits apart in bytes 0 and 4. -/
theorem ones_of_different_type {f g : Frame} {d e : Tuple} (h : packetDecode f 0#16 = .ok d)
    (h' : packetDecode g 0#16 = .ok e) (differ : (d.chan, d.cmd) ≠ (e.chan, e.cmd)) :
    4 ≤ ones ((f ^^^ g) &&& frameMask) := by
  have flips : g = f ^^^ (f ^^^ g) := by rw [← BitVec.xor_assoc, BitVec.xor_self, BitVec.zero_xor]
  rcases flips_between_accepted h (flips ▸ h') with four | ⟨chan, cmd, -⟩
  · exact four
  · exact absurd (by rw [chan, cmd]) differ

/-- Settles O13: by the distance of the patterns, and ENCODE as the inverse of DECODE. -/
theorem singleBitFlipsOfAValidFrame : Obligations.SingleBitFlipsOfAValidFrame := by
  refine ⟨fun f d h => ⟨fun i hi outer filter => packetDecode_flip_rejected h hi outer filter, fun i h8 h32 => ?_,
    packetDecode_swap h⟩, fun f g d e => ones_of_different_type, ones_led_xor_beep⟩
  obtain ⟨d', accepted, other, chan, cmd, passes⟩ := packetDecode_flip_accepted h h8 h32
  exact ⟨⟨d', accepted, other, chan, cmd, fun _ => passes⟩, fun paired h16 => packetDecode_flip_key h h16 h32 paired⟩

end Sys2Proof.Claims
end

section
/-!
PROOF. EMIT at an idle agent: the call takes effect at once (R246), and the lead-in bit alone decides what it does
(R150, R151).
-/

namespace Sys2Proof.Claims

open Sys2Proof Sys2Proof.Machine

/-- A call of an idle agent has nothing to wait for (R246). -/
theorem callTransmit_of_idle {s : State} (idle : agentIdle s) (c : TxCall) :
    callTransmit c s = .next (beginCall c s) := by
  obtain ⟨sym, phase, calls⟩ := idle
  have notBusy := (busy_eq_false s.tx).mpr sym
  have noneUnfinished := (callsUnfinished_eq_false s).mpr ⟨phase, calls⟩
  simp [callTransmit, notBusy, noneUnfinished]

theorem exec_emit_of_idle {s : State} (idle : agentIdle s) (f : Frame) :
    exec (.emit f) s = .next (beginEmit f s) :=
  callTransmit_of_idle idle (.emit f)

theorem beginEmit_of_leadIn {f : Frame} (lead : leadIn f = true) (s : State) :
    beginEmit f s = (startEmission true f s).answer [] [] :=
  if_pos lead

theorem beginEmit_of_sentinel {f : Frame} (sentinel : leadIn f = false) (s : State) :
    beginEmit f s = s.answer [.emitReturned] [.sentinelFrame] :=
  if_neg (by simp [sentinel])

/-- Settles O16: an idle agent takes the call at once, and its only branch is on bit 39. -/
theorem emitTestsTheLeadInBitOnly : Obligations.EmitTestsTheLeadInBitOnly := by
  intro f s idle
  rw [exec_emit_of_idle idle]
  constructor
  · intro lead
    rw [beginEmit_of_leadIn lead]
    rfl
  · intro sentinel
    rw [beginEmit_of_sentinel sentinel]
    rfl

end Sys2Proof.Claims
end

section
/-!
PROOF. The receiver's calls, one rule each (R190 to R199): what CLASSIFY, RX_START, RX_BIT, RX_COMPLETE, RX_REPORT,
RX_FALL and RX_SAMPLE do in each case, over a receive group and then over the state.
-/

namespace Sys2Proof.Machine

open Sys2Proof

/-! The windows of R193, and the fall's three meanings (R192). -/

theorem classifyWidth_eq_zero_iff {h : BitVec 12} {w : Time} :
    classifyWidth h w = .bit false ↔ 100 < w.toNat ∧ w.toNat < 400 := by
  rcases classifyWidth_cases h w with ⟨e, _⟩ | ⟨e, _⟩ | ⟨e, _⟩ | ⟨e, _⟩ <;> simp [e] <;> omega

theorem classifyWidth_eq_one_iff {h : BitVec 12} {w : Time} :
    classifyWidth h w = .bit true ↔ 600 < w.toNat ∧ w.toNat < 900 := by
  rcases classifyWidth_cases h w with ⟨e, _⟩ | ⟨e, _⟩ | ⟨e, _⟩ | ⟨e, _⟩ <;> simp [e] <;> omega

theorem classifyWidth_eq_start_iff {h : BitVec 12} {w : Time} :
    classifyWidth h w = .start ↔ 1300 < w.toNat ∧ w.toNat < h.toNat := by
  rcases classifyWidth_cases h w with ⟨e, _⟩ | ⟨e, _⟩ | ⟨e, _⟩ | ⟨e, _⟩ <;> simp [e] <;> omega

theorem classifyWidth_eq_noise_iff {h : BitVec 12} {w : Time} :
    classifyWidth h w = .noise ↔ ¬ (100 < w.toNat ∧ w.toNat < 400) ∧ ¬ (600 < w.toNat ∧ w.toNat < 900) ∧
      ¬ (1300 < w.toNat ∧ w.toNat < h.toNat) := by
  rcases classifyWidth_cases h w with ⟨e, _⟩ | ⟨e, _⟩ | ⟨e, _⟩ | ⟨e, _⟩ <;> simp [e] <;> omega

section
variable {rx : RxGroup} {t : Time}

theorem rxFall_of_noise (h : classifyWidth rx.wStartHi (t - rx.tRise) = .noise) :
    rxFall t rx = discard .noiseWidth rx := by simp only [rxFall, h]

theorem rxFall_of_start (h : classifyWidth rx.wStartHi (t - rx.tRise) = .start) : rxFall t rx = rxStart t rx := by
  simp only [rxFall, h]

theorem rxFall_of_bit {b : Bool} (h : classifyWidth rx.wStartHi (t - rx.tRise) = .bit b) :
    rxFall t rx = rxBit b t rx := by simp only [rxFall, h]

/-! A data bit: ignored, appended, or appended as the last (R195). -/

theorem rxBit_of_full (full : 40 ≤ rx.count.toNat) (b : Bool) : rxBit b t rx = discard .strayBit rx := by
  obtain ⟨-, h⟩ | ⟨_, -⟩ | ⟨_, -⟩ := rxBit_cases b t rx
  · exact h
  all_goals omega

theorem rxBit_of_partial (few : rx.count.toNat < 39) (b : Bool) : rxBit b t rx = quietly (appendBit b rx) := by
  obtain ⟨_, -⟩ | ⟨-, h⟩ | ⟨_, -⟩ := rxBit_cases b t rx
  · omega
  · exact h
  · omega

theorem rxBit_of_last (last : rx.count.toNat = 39) (b : Bool) : rxBit b t rx = rxComplete t (appendBit b rx) := by
  obtain ⟨_, -⟩ | ⟨_, -⟩ | ⟨-, h⟩ := rxBit_cases b t rx
  · omega
  · omega
  · exact h

theorem appendBit_of_last (last : rx.count.toNat = 39) (b : Bool) :
    appendBit b rx = { rx with buf := (appendBit b rx).buf, count := 40#6 } := by
  have full : rx.count + 1#6 = 40#6 := BitVec.eq_of_toNat_eq (by simp [last])
  simp only [appendBit, full]

/-! The completed frame: the gate, DECODE, and the report (R196 to R199). -/

/-- The gate is inclusive at both ends (R197). -/
theorem gate_passes {n : Nat} (lo : 37000 ≤ n) (hi : n ≤ 42000) : ¬ (n < Config.durMin ∨ Config.durMax < n) := by
  simp only [Config.durMin, Config.durMax]
  omega

theorem rxComplete_of_badDuration (bad : (t - rx.tStart).toNat < 37000 ∨ 42000 < (t - rx.tStart).toNat) :
    rxComplete t rx = discard .badDuration rx := if_pos bad

theorem rxComplete_of_rejected (lo : 37000 ≤ (t - rx.tStart).toNat) (hi : (t - rx.tStart).toNat ≤ 42000)
    {r : Reason} (rejected : packetDecode rx.buf rx.keyFilter = .error r) : rxComplete t rx = discard r rx := by
  simp only [rxComplete, if_neg (gate_passes lo hi), rejected]

theorem rxComplete_of_decoded (lo : 37000 ≤ (t - rx.tStart).toNat) (hi : (t - rx.tStart).toNat ≤ 42000) {d : Tuple}
    (decoded : packetDecode rx.buf rx.keyFilter = .ok d) : rxComplete t rx = rxReport d t rx := by
  simp only [rxComplete, if_neg (gate_passes lo hi), decoded]

end

/-- What a report may not write: it writes the accepted command, its flag and its end time (R199). -/
structure KeptByReport (rx rx' : RxGroup) : Prop where
  lastLevel : rx'.lastLevel = rx.lastLevel
  count : rx'.count = rx.count
  buf : rx'.buf = rx.buf
  tRise : rx'.tRise = rx.tRise
  tStart : rx'.tStart = rx.tStart
  keyFilter : rx'.keyFilter = rx.keyFilter
  wStartHi : rx'.wStartHi = rx.wStartHi

/-- In both cases of the repeat test the tuple is stored afterwards, and the flag is set: a repeat had them so. -/
theorem rxReport_rx (d : Tuple) (t : Time) (rx : RxGroup) :
    (rxReport d t rx).rx = { rx with last := d, lastValid := true, tEnd := t } := by
  obtain ⟨h, valid, -, rfl⟩ | ⟨h, -⟩ := rxReport_cases d t rx
  · rw [h, ← valid]
  · rw [h]

theorem rxComplete_kept (t : Time) (rx : RxGroup) : KeptByReport rx (rxComplete t rx).rx := by
  obtain ⟨r, h⟩ | ⟨d, -, -, -, h⟩ := rxComplete_cases t rx
  · rw [h]
    exact ⟨rfl, rfl, rfl, rfl, rfl, rfl, rfl⟩
  · rw [h, rxReport_rx]
    exact ⟨rfl, rfl, rfl, rfl, rfl, rfl, rfl⟩

/-! A result other than NONE comes only from the 40th bit. -/

theorem rxBit_reports {b : Bool} {t : Time} {rx : RxGroup} (h : (rxBit b t rx).result ≠ .none) :
    rx.count = 39#6 ∧ (rxBit b t rx).rx.count = 40#6 := by
  obtain ⟨-, e⟩ | ⟨-, e⟩ | ⟨last, e⟩ := rxBit_cases b t rx
  · rw [e] at h
    exact absurd rfl h
  · rw [e] at h
    exact absurd rfl h
  · rw [e, (rxComplete_kept t _).count, appendBit_of_last last]
    exact ⟨BitVec.eq_of_toNat_eq last, rfl⟩

theorem rxFall_reports {t : Time} {rx : RxGroup} (h : (rxFall t rx).result ≠ .none) :
    rx.count = 39#6 ∧ (rxFall t rx).rx.count = 40#6 := by
  obtain e | e | ⟨b, e⟩ := rxFall_cases t rx
  · rw [e] at h
    exact absurd rfl h
  · rw [e] at h
    exact absurd (rxStart_eq t rx).2 h
  · rw [e] at h ⊢
    exact rxBit_reports h

theorem rxSample_reports {level : Bool} {t : Time} {rx : RxGroup} (h : (rxSample level t rx).result ≠ .none) :
    level = false ∧ rx.lastLevel = true ∧ rx.count = 39#6 ∧ (rxSample level t rx).rx.count = 40#6 := by
  obtain ⟨-, e⟩ | ⟨-, -, e⟩ | ⟨low, high, e⟩ := rxSample_cases level t rx
  · rw [e] at h
    exact absurd rfl h
  · rw [e] at h
    exact absurd rfl h
  · rw [e] at h ⊢
    exact ⟨low, high, rxFall_reports h⟩

theorem rxSample_same {level : Bool} {rx : RxGroup} (same : level = rx.lastLevel) (t : Time) :
    rxSample level t rx = quietly rx := if_pos same

theorem rxSample_rise {rx : RxGroup} (low : rx.lastLevel = false) (t : Time) :
    rxSample true t rx = quietly { rx with lastLevel := true, tRise := t } := by
  simp [rxSample, low, rxRise]

theorem rxSample_fall {rx : RxGroup} (high : rx.lastLevel = true) (t : Time) :
    rxSample false t rx = rxFall t { rx with lastLevel := false } := by
  simp [rxSample, high]

/-! The same calls as instructions: each puts the outcome of one receive step in place. -/

section
variable (s : State) (t : Time)

theorem exec_rxSample (level : Bool) : exec (.rxSample level t) s = .next (s.takeRx (rxSample level t s.rx)) := rfl
theorem exec_rxFall : exec (.rxFall t) s = .next (s.takeRx (rxFall t s.rx)) := rfl
theorem exec_rxStart : exec (.rxStart t) s = .next (s.takeRx (rxStart t s.rx)) := rfl
theorem exec_rxBit (b : Bool) : exec (.rxBit b t) s = .next (s.takeRx (rxBit b t s.rx)) := rfl
theorem exec_rxComplete : exec (.rxComplete t) s = .next (s.takeRx (rxComplete t s.rx)) := rfl
theorem exec_rxReport (d : Tuple) : exec (.rxReport d t) s = .next (s.takeRx (rxReport d t s.rx)) := rfl

theorem State.takeRx_discard (r : Reason) (rx : RxGroup) :
    s.takeRx (discard r rx) = { s with rx := rx, delivered := [.rx .none], reasons := [r] } := rfl

theorem State.takeRx_quietly (rx : RxGroup) :
    s.takeRx (quietly rx) = { s with rx := rx, delivered := [.rx .none], reasons := [] } := rfl

end

/-- DECODE hands back no tuple only for a frame that a check rejects, with that check's reason. -/
theorem exec_decode_none {f : Frame} {filter : BitVec 16} {s t : State} (run : exec (.decode f filter) s = .next t)
    (undecoded : t.delivered = [.decoded none]) : ∃ r, packetDecode f filter = .error r ∧ t.reasons = [r] := by
  cases h : packetDecode f filter with
  | ok d =>
    cases (execDecode_of_ok h s).symm.trans run
    cases undecoded
  | error r =>
    cases (execDecode_of_error h s).symm.trans run
    exact ⟨r, rfl, rfl⟩

theorem exec_decode_some {f : Frame} {filter : BitVec 16} {s t : State} {d : Tuple}
    (run : exec (.decode f filter) s = .next t) (decoded : t.delivered = [.decoded (some d)]) :
    packetDecode f filter = .ok d := by
  cases h : packetDecode f filter with
  | ok d' =>
    cases (execDecode_of_ok h s).symm.trans run
    cases decoded
    rfl
  | error r =>
    cases (execDecode_of_error h s).symm.trans run
    cases decoded

/-- Tuples are compared component by component (R199). -/
theorem tuple_eq_iff (d e : Tuple) :
    d = e ↔ d.key = e.key ∧ d.chan = e.chan ∧ d.cmd = e.cmd ∧ d.power = e.power := by
  cases d
  cases e
  simp

end Sys2Proof.Machine

namespace Sys2Proof.Claims

open Sys2Proof Sys2Proof.Machine

/-- Settles O32: the group and the result in every state; the reason is met for a partial frame only. -/
theorem startMarkerBeginsAFrame : Obligations.StartMarkerBeginsAFrame := by
  intro T s
  obtain ⟨group, result⟩ := rxStart_eq T s.rx
  have reasons : (rxStart T s.rx).reason.toList = truncation s.rx := by
    rw [rxStart_reason, truncation]
    split <;> rfl
  rw [exec_rxStart, State.takeRx, group, result, reasons]

/-- Settles O30: the class is the model's, and each window is the condition for its class. -/
theorem pulseWidthClasses : Obligations.PulseWidthClasses := fun _ _ =>
  ⟨_, rfl, classifyWidth_eq_zero_iff, classifyWidth_eq_one_iff, classifyWidth_eq_start_iff,
    classifyWidth_eq_noise_iff⟩

/-- Settles O31, by the class of the width. -/
theorem fallingEdgeDoesWhatItsWidthSays : Obligations.FallingEdgeDoesWhatItsWidthSays := by
  intro T s w
  refine ⟨fun zero => ⟨_, exec_rxBit .., ?_⟩, fun one => ⟨_, exec_rxBit .., ?_⟩,
    fun start => ⟨_, exec_rxStart .., ?_⟩, fun notZero notOne notStart => ?_⟩
  · rw [exec_rxFall, rxFall_of_bit (classifyWidth_eq_zero_iff.mpr zero)]
  · rw [exec_rxFall, rxFall_of_bit (classifyWidth_eq_one_iff.mpr one)]
  · rw [exec_rxFall, rxFall_of_start (classifyWidth_eq_start_iff.mpr start)]
  · rw [exec_rxFall, rxFall_of_noise (classifyWidth_eq_noise_iff.mpr ⟨notZero, notOne, notStart⟩),
      State.takeRx_discard]

/-- Settles O33, by the number of bits that are in: 40 or more, fewer than 39, or 39. -/
theorem dataBitIsAppendedOrIgnored : Obligations.DataBitIsAppendedOrIgnored := by
  intro b T s
  refine ⟨fun full => ?_, fun _ => ⟨(appendBit b s.rx).buf, fun i _ => appendBit_buf b s.rx i, fun few => ?_,
    fun last => ⟨_, exec_rxComplete .., ?_⟩⟩⟩
  · rw [exec_rxBit, rxBit_of_full full, State.takeRx_discard]
  · rw [exec_rxBit, rxBit_of_partial few, State.takeRx_quietly]
    rfl
  · rw [exec_rxBit, rxBit_of_last last, ← appendBit_of_last last]
    rfl

/-- Settles O34, by the gate and then by DECODE's answer. -/
theorem completionGatesThenDecodesThenReports : Obligations.CompletionGatesThenDecodesThenReports := by
  intro T s dur
  refine ⟨fun bad => ?_, fun lo hi t run => ⟨fun undecoded => ?_, fun d decoded => ⟨_, exec_rxReport .., ?_⟩⟩, ?_⟩
  · rw [exec_rxComplete, rxComplete_of_badDuration bad, State.takeRx_discard]
  · obtain ⟨r, rejected, reasons⟩ := exec_decode_none run undecoded
    rw [exec_rxComplete, rxComplete_of_rejected lo hi rejected, State.takeRx_discard, reasons]
  · rw [exec_rxComplete, rxComplete_of_decoded lo hi (exec_decode_some run decoded)]
  · rintro _ ⟨⟩
    exact ⟨(rxComplete_kept T s.rx).count, (rxComplete_kept T s.rx).buf⟩

/-- Settles O35: the four components are equal exactly when the tuples are, and the rest is the repeat test. -/
theorem repeatSuppression : Obligations.RepeatSuppression := by
  intro d T s
  simp only [← tuple_eq_iff, exec_rxReport]
  obtain ⟨report, again⟩ | ⟨report, notAgain⟩ := rxReport_cases d T s.rx
  · rw [report]
    exact ⟨fun _ => rfl, fun notAgain => absurd again notAgain⟩
  · rw [report]
    exact ⟨fun again => absurd again notAgain, fun _ => rfl⟩

/-- Settles O29: the three cases of a sample, and a result only from the fall that completes a frame. -/
theorem rxSampleActsOnLevelChangesOnly : Obligations.RxSampleActsOnLevelChangesOnly := by
  intro level T s
  refine ⟨fun same => ?_, ?_, ?_, ?_, rfl⟩
  · rw [exec_rxSample, rxSample_same same, State.takeRx_quietly]
  · rintro rfl low
    rw [exec_rxSample, rxSample_rise low, State.takeRx_quietly]
  · rintro rfl high
    refine ⟨_, exec_rxFall .., ?_⟩
    rw [exec_rxSample, rxSample_fall high]
    rfl
  · rintro _ ⟨⟩ reported
    exact rxSample_reports fun quiet => reported (by rw [State.takeRx_delivered, quiet])

end Sys2Proof.Claims
end

section
/-!
PROOF. A frame on the line (R202): a start marker clears the receiver, each of the next 39 pulses adds its bit, the
40th bit completes the frame, and the trailer is a stray bit. First the run over a receive group, for any frame and
whatever RX_COMPLETE answers; then the same as RX_SAMPLE instructions.
-/

namespace Sys2Proof.Machine

open Sys2Proof

/-- The first `n` payload bits of a frame, the other bits 0: the buffer when `n` bits are in (R32, R61). -/
def topBits (f : Frame) (n : Nat) : Frame := (f >>> (40 - n)) <<< (40 - n)

theorem topBits_getLsbD (f : Frame) (n i : Nat) :
    (topBits f n).getLsbD i = (decide (40 - n ≤ i) && f.getLsbD i) := by
  by_cases hi : 40 - n ≤ i
  · by_cases h40 : i < 40
    · simp [topBits, hi, h40, Nat.not_lt.mpr hi, Nat.add_sub_cancel' hi]
    · simp [BitVec.getLsbD_of_ge _ _ (Nat.not_lt.mp h40)]
  · simp [topBits, hi, Nat.not_le.mp hi]

@[simp] theorem topBits_zero (f : Frame) : topBits f 0 = 0#40 := by
  refine BitVec.eq_of_getLsbD_eq fun i hi => ?_
  rw [topBits_getLsbD, decide_eq_false (by omega), Bool.false_and, BitVec.getLsbD_zero]

@[simp] theorem topBits_forty (f : Frame) : topBits f 40 = f := by simp [topBits]

/-- The next bit of the frame written in its place (R195). -/
theorem setBit_topBits (f : Frame) {n : Nat} (hn : n < 40) :
    setBit (topBits f n) (39 - n) (f.getLsbD (39 - n)) = topBits f (n + 1) := by
  refine BitVec.eq_of_getLsbD_eq fun i _ => (bitAt_setBit _ _ _ _ (by omega)).trans ?_
  rw [bitAt, topBits_getLsbD, topBits_getLsbD]
  split
  · next e => simp [e]
  · next e => simp only [show (40 - n ≤ i) ↔ (40 - (n + 1) ≤ i) by omega]

/-- The two samples of a pulse, its rise and its fall. -/
def pulseEdges (q : Time × Time) : List (Bool × Time) := [(true, q.1), (false, q.2)]

/-- The pulses of the first `n` bits of an emission: pulse 0 is the start marker (R152). -/
def bitPulses (p : Nat → Time × Time) (n : Nat) : List (Bool × Time) :=
  (List.range n).flatMap fun k => pulseEdges (p (k + 1))

theorem bitPulses_succ (p : Nat → Time × Time) (n : Nat) :
    bitPulses p (n + 1) = bitPulses p n ++ pulseEdges (p (n + 1)) := by
  simp [bitPulses, List.range_succ]

/-- The receive group when the start marker and `n` bits of the frame have come, `p k` being pulse `k`. -/
def RxGroup.receiving (rx : RxGroup) (f : Frame) (p : Nat → Time × Time) (n : Nat) : RxGroup :=
  { rx with count := BitVec.ofNat 6 n, buf := topBits f n, tRise := (p n).1, tStart := (p 0).2 }

/-- The pulses are those of the frame to a receiver with this `w_start_hi`: a start marker, the 40 bits, and the
trailer, which is a ZERO (R89, R193). -/
structure CarriesFrame (wStartHi : BitVec 12) (f : Frame) (p : Nat → Time × Time) : Prop where
  start : classifyWidth wStartHi ((p 0).2 - (p 0).1) = .start
  bits : ∀ k < 40, classifyWidth wStartHi ((p (k + 1)).2 - (p (k + 1)).1) = .bit (f.getLsbD (39 - k))
  trailer : classifyWidth wStartHi ((p 41).2 - (p 41).1) = .bit false

/-- The group once a rise is recorded (R191). -/
def RxGroup.risenAt (rx : RxGroup) (t : Time) : RxGroup := { rx with tRise := t }

@[simp] theorem risenAt_count (rx : RxGroup) (t : Time) : (rx.risenAt t).count = rx.count := rfl

/-- The fall that ends a pulse finds the line low again and the rise recorded (R190 to R192). -/
theorem rxSample_fall_risen {rx : RxGroup} (low : rx.lastLevel = false) (r t : Time) :
    rxSample false t { rx with lastLevel := true, tRise := r } = rxFall t (rx.risenAt r) := by
  rw [rxSample_fall rfl, RxGroup.risenAt, low]

/-- One pulse on a low line is one RX_FALL with the rise recorded. -/
theorem rxFeed_pulseEdges {rx : RxGroup} (low : rx.lastLevel = false) (q : Time × Time) :
    rxFeed (pulseEdges q) rx =
      { rx := (rxFall q.2 (rx.risenAt q.1)).rx
        results := [.none, (rxFall q.2 (rx.risenAt q.1)).result]
        reasons := (rxFall q.2 (rx.risenAt q.1)).reason.toList } := by
  rw [pulseEdges, rxFeed_pulse _ _ _ _ low]
  simp [rxFeed, RxGroup.risenAt]

section
variable {rx : RxGroup} {f : Frame} {p : Nat → Time × Time}

theorem receiving_count {n : Nat} (hn : n ≤ 40) : (rx.receiving f p n).count.toNat = n := by
  simp only [RxGroup.receiving, BitVec.toNat_ofNat]
  omega

/-- The next bit of the frame appended, once its rise is recorded. -/
theorem appendBit_receiving {n : Nat} (hn : n < 40) :
    appendBit (f.getLsbD (39 - n)) ((rx.receiving f p n).risenAt (p (n + 1)).1) = rx.receiving f p (n + 1) := by
  have count : (BitVec.ofNat 6 n).toNat = n := receiving_count (rx := rx) (f := f) (p := p) hn.le
  simp only [appendBit, RxGroup.risenAt, RxGroup.receiving, count, Config.frameBits, Nat.reduceSub,
    setBit_topBits f hn, BitVec.ofNat_add]

/-- What the fall of the next bit's pulse does is RX_BIT with that bit (R192). -/
theorem rxFall_receiving (carries : CarriesFrame rx.wStartHi f p) {n : Nat} (hn : n < 40) :
    rxFall (p (n + 1)).2 ((rx.receiving f p n).risenAt (p (n + 1)).1) =
      rxBit (f.getLsbD (39 - n)) (p (n + 1)).2 ((rx.receiving f p n).risenAt (p (n + 1)).1) :=
  rxFall_of_bit (carries.bits n hn)

variable (low : rx.lastLevel = false) (carries : CarriesFrame rx.wStartHi f p)
include low carries

/-- The start marker, whatever was in the buffer before (R194). -/
theorem rxFeed_startPulse :
    rxFeed (pulseEdges (p 0)) rx =
      { rx := rx.receiving f p 0, results := [.none, .none], reasons := (rxStart (p 0).2 rx).reason.toList } := by
  rw [rxFeed_pulseEdges low, rxFall_of_start carries.start, (rxStart_eq ..).1, (rxStart_eq ..).2, rxStart_reason,
    rxStart_reason]
  simp only [RxGroup.receiving, RxGroup.risenAt, topBits_zero]
  rfl

/-- A bit before the 40th is no event (R195). -/
theorem rxFeed_bitPulse {n : Nat} (hn : n < 39) :
    rxFeed (pulseEdges (p (n + 1))) (rx.receiving f p n) =
      { rx := rx.receiving f p (n + 1), results := [.none, .none], reasons := [] } := by
  have few : (rx.receiving f p n).count.toNat < 39 := (receiving_count (by omega)).trans_lt hn
  rw [rxFeed_pulseEdges (rx := rx.receiving f p n) low, rxFall_receiving carries (by omega),
    rxBit_of_partial (by rwa [risenAt_count]), appendBit_receiving (by omega)]
  rfl

/-- One bit after the other, up to the 39th. -/
theorem rxFeed_bitPulses {n : Nat} (hn : n ≤ 39) :
    rxFeed (bitPulses p n) (rx.receiving f p 0) =
      { rx := rx.receiving f p n, results := List.replicate (2 * n) .none, reasons := [] } := by
  induction n with
  | zero => rfl
  | succ n ih =>
    rw [bitPulses_succ, rxFeed_append, ih (by omega), rxFeed_bitPulse low carries (by omega)]
    simp [Nat.mul_succ, List.replicate_add]

/-- The 40th bit completes the frame: the buffer holds the frame, and RX_COMPLETE decides (R195, R196). -/
theorem rxFeed_lastBit :
    rxFeed (pulseEdges (p 40)) (rx.receiving f p 39) =
      { rx := (rxComplete (p 40).2 (rx.receiving f p 40)).rx
        results := [.none, (rxComplete (p 40).2 (rx.receiving f p 40)).result]
        reasons := (rxComplete (p 40).2 (rx.receiving f p 40)).reason.toList } := by
  have last : (rx.receiving f p 39).count.toNat = 39 := receiving_count (by omega)
  rw [rxFeed_pulseEdges (rx := rx.receiving f p 39) low, rxFall_receiving carries (by omega),
    rxBit_of_last (by rwa [risenAt_count]), appendBit_receiving (by omega)]

/-- The first 82 samples of a frame: NONE until the 40th bit, and there what RX_COMPLETE answers (R202). -/
theorem rxFeed_frame :
    rxFeed (pulseEdges (p 0) ++ bitPulses p 40) rx =
      { rx := (rxComplete (p 40).2 (rx.receiving f p 40)).rx
        results := List.replicate 81 .none ++ [(rxComplete (p 40).2 (rx.receiving f p 40)).result]
        reasons := (rxStart (p 0).2 rx).reason.toList ++
          (rxComplete (p 40).2 (rx.receiving f p 40)).reason.toList } := by
  rw [rxFeed_append, rxFeed_startPulse low carries, bitPulses_succ, rxFeed_append,
    rxFeed_bitPulses low carries le_rfl, rxFeed_lastBit low carries]
  rfl

end

/-- The trailer finds the counter at 40 and is ignored (R152, R195). -/
theorem rxFall_trailer {rx : RxGroup} {q : Time × Time} (full : 40 ≤ rx.count.toNat)
    (zero : classifyWidth rx.wStartHi (q.2 - q.1) = .bit false) :
    rxFall q.2 (rx.risenAt q.1) = discard .strayBit (rx.risenAt q.1) :=
  (rxFall_of_bit (rx := rx.risenAt q.1) zero).trans (rxBit_of_full (rx := rx.risenAt q.1) full false)

end Sys2Proof.Machine

namespace Sys2Proof.Claims

open Sys2Proof Sys2Proof.Machine

/-- RX_SAMPLE instructions one after another are the model's run of samples; the last one leaves its own outcome on
the ports (R67). -/
theorem sampled_concat (es : List (Bool × Time)) (e : Bool × Time) (s : State) :
    sampled (es ++ [e]) s = some (s.takeRx (rxSample e.1 e.2 (rxFeed es s.rx).rx),
      (rxFeed (es ++ [e]) s.rx).results.map .rx) := by
  induction es generalizing s with
  | nil => rfl
  | cons e' es ih =>
    simp only [List.cons_append, sampled, exec_rxSample, ih, Option.map_some]
    rfl

/-- The last two samples being a pulse on a low line, the last outcome is that of RX_FALL. -/
theorem sampled_append_pulseEdges {es : List (Bool × Time)} {s : State}
    (low : (rxFeed es s.rx).rx.lastLevel = false) (q : Time × Time) :
    sampled (es ++ pulseEdges q) s = some (s.takeRx (rxFall q.2 ((rxFeed es s.rx).rx.risenAt q.1)),
      ((rxFeed es s.rx).results ++ (rxFeed (pulseEdges q) (rxFeed es s.rx).rx).results).map .rx) := by
  have rise : (rxFeed (es ++ [(true, q.1)]) s.rx).rx =
      { (rxFeed es s.rx).rx with lastLevel := true, tRise := q.1 } := by
    rw [rxFeed_append]
    simp only [rxFeed, rxSample_rise low, quietly]
  rw [pulseEdges, List.append_cons, sampled_concat, ← List.append_cons, rise, rxSample_fall_risen low, rxFeed_append]

/-- The samples of 42 pulses: the start marker and the 40 bits, then the trailer. -/
theorem samplesOf_eq (p : Nat → Time × Time) :
    samplesOf p = (pulseEdges (p 0) ++ bitPulses p 40) ++ pulseEdges (p 41) := by
  have pulses : List.range 42 = 0 :: (List.range 40).map (· + 1) ++ [41] := by decide
  rw [samplesOf, pulses]
  simp [bitPulses, pulseEdges, List.flatMap_map]

/-- A window of R193 for each symbol of the frame says that the pulses carry it. -/
theorem carriesFrame_of_windows {wStartHi : BitVec 12} {f : Frame} {p : Nat → Time × Time}
    (start : 1300 < ((p 0).2 - (p 0).1).toNat ∧ ((p 0).2 - (p 0).1).toNat < wStartHi.toNat)
    (bits : ∀ k, 1 ≤ k → k ≤ 41 →
      if k ≤ 40 ∧ f.getLsbD (40 - k) = true
      then 600 < ((p k).2 - (p k).1).toNat ∧ ((p k).2 - (p k).1).toNat < 900
      else 100 < ((p k).2 - (p k).1).toNat ∧ ((p k).2 - (p k).1).toNat < 400) :
    CarriesFrame wStartHi f p where
  start := classifyWidth_eq_start_iff.mpr start
  bits k hk := by
    have window := bits (k + 1) (by omega) (by omega)
    rw [show 40 - (k + 1) = 39 - k by omega] at window
    cases bit : f.getLsbD (39 - k) with
    | false => exact classifyWidth_eq_zero_iff.mpr (by simpa [bit] using window)
    | true => exact classifyWidth_eq_one_iff.mpr (by simpa [bit, Nat.succ_le_of_lt hk] using window)
  trailer := classifyWidth_eq_zero_iff.mpr (by simpa using bits 41 (by omega) le_rfl)

/-- RX_REPORT's result is the repeat test of R199. -/
theorem rxReport_result (d : Tuple) (t : Time) (rx : RxGroup) : (rxReport d t rx).result = reportOf rx d rx.tStart := by
  unfold reportOf
  obtain ⟨h, again⟩ | ⟨h, notAgain⟩ := rxReport_cases d t rx
  · rw [h, if_pos again]
  · rw [h, if_neg notAgain]

/-- Any 42 pulses that carry a frame: only the 82nd call can have a result, and RX_COMPLETE gives it. -/
theorem sampled_carried {f : Frame} {s : State} {p : Nat → Time × Time} (low : s.rx.lastLevel = false)
    (carries : CarriesFrame s.rx.wStartHi f p) :
    sampled (samplesOf p) s =
      some ({ s with
        rx := (rxComplete (p 40).2 (s.rx.receiving f p 40)).rx.risenAt (p 41).1
        delivered := [.rx .none], reasons := [.strayBit] },
      oneReport (rxComplete (p 40).2 (s.rx.receiving f p 40)).result) := by
  have frame := rxFeed_frame low carries
  have kept := rxComplete_kept (p 40).2 (s.rx.receiving f p 40)
  generalize rxComplete (p 40).2 (s.rx.receiving f p 40) = o at frame kept ⊢
  have low' : o.rx.lastLevel = false := kept.lastLevel.trans low
  have trailer := rxFall_trailer (rx := o.rx) (q := p 41) (by rw [kept.count, receiving_count le_rfl])
    (kept.wStartHi ▸ carries.trailer)
  rw [samplesOf_eq, sampled_append_pulseEdges (by rw [frame]; exact low'), frame, rxFeed_pulseEdges low', trailer]
  rfl

/-- A frame that DECODE accepts, within the gate's duration, is reported (R202). -/
theorem sampled_frame {f : Frame} {d : Tuple} {s : State} {p : Nat → Time × Time}
    (accepted : packetDecode f s.rx.keyFilter = .ok d) (low : s.rx.lastLevel = false)
    (carries : CarriesFrame s.rx.wStartHi f p)
    (lo : 37000 ≤ ((p 40).2 - (p 0).2).toNat) (hi : ((p 40).2 - (p 0).2).toNat ≤ 42000) :
    sampled (samplesOf p) s = some ({ s with
      rx := { s.rx with count := 40#6, buf := f, tRise := (p 41).1, tStart := (p 0).2, tEnd := (p 40).2,
                        last := d, lastValid := true }
      delivered := [.rx .none], reasons := [.strayBit] }, oneReport (reportOf s.rx d (p 0).2)) := by
  have decoded : packetDecode (s.rx.receiving f p 40).buf (s.rx.receiving f p 40).keyFilter = .ok d := by
    simpa [RxGroup.receiving] using accepted
  rw [sampled_carried low carries, rxComplete_of_decoded lo hi decoded, rxReport_rx, rxReport_result]
  simp only [RxGroup.receiving, topBits_forty]
  rfl

/-! The nominal emission (R154). -/

theorem after_sub_after (t0 : Time) {a b : Nat} (hb : b ≤ a) (ha : a < 2 ^ 32) :
    (after t0 a - after t0 b).toNat = a - b := by
  simp only [after, BitVec.toNat_sub, BitVec.toNat_add, BitVec.toNat_ofNat]
  omega

theorem nominalPulse_width (f : Frame) (t0 : Time) {k : Nat} (hk : k ≤ 41) :
    ((nominalPulse f t0 k).2 - (nominalPulse f t0 k).1).toNat = pulseWidth f k := by
  have start : pulseStart k ≤ 42250 := by
    unfold pulseStart
    split <;> omega
  have width : pulseWidth f k ≤ 1500 := by
    unfold pulseWidth
    split_ifs <;> omega
  rw [nominalPulse, after_sub_after _ (by omega) (by omega)]
  omega

theorem nominalPulse_carries (f : Frame) (t0 : Time) {wStartHi : BitVec 12} (wide : 1500 < wStartHi.toNat) :
    CarriesFrame wStartHi f (nominalPulse f t0) := by
  refine carriesFrame_of_windows ?_ fun k hk hk' => ?_
  · rw [nominalPulse_width f t0 (Nat.zero_le _)]
    simpa [pulseWidth] using wide
  · rw [nominalPulse_width f t0 hk', pulseWidth, if_neg (Nat.ne_of_gt hk)]
    split <;> omega

/-- The last payload bit of a frame that DECODE accepts is 0 (R80). -/
theorem lastBit_of_packetDecode {f : Frame} {filter : BitVec 16} {d : Tuple} (h : packetDecode f filter = .ok d) :
    f.getLsbD 0 = false := by
  obtain ⟨-, r, hr, ⟨-, byte4⟩, -⟩ := packetDecode_ok_iff.mp h
  have zero := (frameTable_fixedBits r hr).2
  rw [← byte4] at zero
  simpa [byteAt] using zero

/-- So the fall of the 40th bit is 41500 us after the beginning. -/
theorem nominalPulse_lastFall {f : Frame} (zero : f.getLsbD 0 = false) (t0 : Time) :
    (nominalPulse f t0 40).2 = after t0 41500 := by
  simp only [nominalPulse, pulseStart, pulseWidth, Nat.sub_self, zero]
  rfl

/-- Settles O39: the nominal edges are a case of pulses that carry the frame, with a duration of 40000 us. -/
theorem loopBackAcceptance : Obligations.LoopBackAcceptance := by
  intro f d s accepted low
  refine ⟨fun p start bits ⟨lo, hi⟩ => ?_, fun t0 wide => ?_⟩
  · exact ⟨_, sampled_frame accepted low (carriesFrame_of_windows start bits) lo hi, rfl⟩
  · have lastFall := nominalPulse_lastFall (lastBit_of_packetDecode accepted) t0
    have duration : ((nominalPulse f t0 40).2 - (nominalPulse f t0 0).2).toNat = 40000 := by
      rw [lastFall]
      exact after_sub_after (a := 41500) (b := 1500) t0 (by omega) (by omega)
    exact ⟨_, sampled_frame accepted low (nominalPulse_carries f t0 wide) (by omega) (by omega), rfl,
      lastFall, rfl, rfl⟩

end Sys2Proof.Claims
end

section
/-!
PROOF. RESET (R260): the groups it puts in place, whatever was in progress, and their derived views (R50).
-/

namespace Sys2Proof.Machine

open Sys2Proof

/-- RESET reads nothing of the state it ends: the groups of R50 stand in the next state as they are. -/
theorem exec_reset_groups (s : State) :
    ∃ t, exec .reset s = .next t ∧ t.tx = TxGroup.reset ∧ t.ka = KaGroup.reset ∧ t.rx = RxGroup.reset :=
  ⟨_, rfl, rfl, rfl, rfl⟩

/-- No emission is in progress after RESET (R27). -/
@[simp] theorem TxGroup.reset_busy : TxGroup.reset.busy = false := (busy_eq_false _).mpr rfl

/-- No frame is in progress after RESET: the bit counter is neither below 40 nor 40 (R39). -/
@[simp] theorem RxGroup.reset_state : RxGroup.reset.state = .idle := by
  simp [RxGroup.state, RxGroup.reset, Config.rxIdle]

end Sys2Proof.Machine

namespace Sys2Proof.Claims

open Sys2Proof Sys2Proof.Machine

/-- Settles O44: apart from the two derived views, each element is a field of a group that RESET puts in place. -/
theorem resetPutsEveryElementAtItsValue : Obligations.ResetPutsEveryElementAtItsValue := by
  intro s
  obtain ⟨t, next, tx, ka, rx⟩ := exec_reset_groups s
  refine ⟨t, next, ?_⟩
  rw [tx, ka, rx, TxGroup.reset_busy, RxGroup.reset_state]
  and_intros <;> rfl

end Sys2Proof.Claims
end

section
/-!
PROOF. Decoder and encoder undo each other: the frame rows through the table of R93, the slot strings of R92 one by one,
the operations by their ports (R70).
-/

namespace Sys2Proof.Claims

open Sys2Proof Sys2Proof.Machine

/-- Key and power written into their empty fields (R80). -/
theorem frameWord_pattern (b0 : BitVec 8) (key : BitVec 16) (power b4 : BitVec 8) :
    frameWord (frameOf b0 0#16 0#8 b4) key power = frameOf b0 key power b4 := by
  refine BitVec.eq_of_getLsbD_eq fun i hi => ?_
  simp only [frameWord, frameOf_getLsbD, BitVec.getLsbD_or, BitVec.getLsbD_shiftLeft, BitVec.getLsbD_setWidth,
    BitVec.getLsbD_zero]
  split_ifs with byte4 inPower inKey
  · simp [byte4, show i < 16 by omega]
  · simp [hi, inPower, byte4, show i - 8 < 40 by omega]
  · simp [hi, byte4, inPower, BitVec.getLsbD_of_ge power (i - 8) (by omega), show i - 16 < 40 by omega]
  · simp [BitVec.getLsbD_of_ge power (i - 8) (by omega), BitVec.getLsbD_of_ge key (i - 16) (by omega)]

/-- The encoder writes a row's instruction into the row's pattern. -/
theorem encode_row {r : FrameRow} (hr : r ∈ frameTable) (key : BitVec 16) (power : BitVec 8) :
    encode (r.instr key power) = .frame (frameOf r.b0 key power r.b4) := by
  have written : ∀ r ∈ frameTable, encode (r.instr key power) = .frame (frameWord r.pattern key power) := by
    simp only [frameTable, List.forall_mem_cons, List.not_mem_nil, false_imp_iff, implies_true, and_true]
    and_intros <;> rfl
  rw [written r hr, FrameRow.pattern, frameWord_pattern]

theorem decode_encode_row {r : FrameRow} (hr : r ∈ frameTable) (key : BitVec 16) (power : BitVec 8) :
    decode (encode (r.instr key power)) = .ok (r.instr key power) := by
  rw [encode_row hr]
  exact decodeFrame_eq_ok_iff.mpr ⟨r, hr, fits_frameOf r key power, by simp⟩

/-- The row of the table with this number. -/
theorem frameTable_getElem_mem (n : Fin 8) : frameTable[n] ∈ frameTable := List.getElem_mem n.isLt

theorem decode_encode {i : Instr} (wf : WellFormed i = true) : decode (encode i) = .ok i := by
  cases i with
  | led1 key power => exact decode_encode_row (frameTable_getElem_mem 0) key power
  | beep1 key power => exact decode_encode_row (frameTable_getElem_mem 1) key power
  | vibrate1 key power => exact decode_encode_row (frameTable_getElem_mem 2) key power
  | zap1 key power => exact decode_encode_row (frameTable_getElem_mem 3) key power
  | led2 key power => exact decode_encode_row (frameTable_getElem_mem 4) key power
  | beep2 key power => exact decode_encode_row (frameTable_getElem_mem 5) key power
  | vibrate2 key power => exact decode_encode_row (frameTable_getElem_mem 6) key power
  | zap2 key power => exact decode_encode_row (frameTable_getElem_mem 7) key power
  | cfgWrite no value =>
    have fits : no < 4 := by simpa [WellFormed] using wf
    simp [encode, decode, decodeOp, Nat.mod_eq_of_lt fits]
  | _ => rfl

/-- A frame word that decodes is the one the encoder writes: its row, key and power make it up. -/
theorem encode_of_decodeFrame {f : Frame} {i : Instr} (h : decodeFrame f = .ok i) : encode i = .frame f := by
  obtain ⟨r, hr, ⟨byte0, byte4⟩, rfl⟩ := decodeFrame_eq_ok_iff.mp h
  rw [encode_row hr, ← byte0, ← byte4, frameOf_fields]

theorem encode_of_decodeSlots {b : List Bool} {i : Instr} (h : decodeSlots b = .ok i) : encode i = .slots b := by
  unfold decodeSlots at h
  split_ifs at h with start one zero
  · cases h
    rw [start]
    rfl
  · cases h
    rw [one]
    rfl
  · cases h
    rw [zero]
    rfl

/-- Settles O2: forwards instruction by instruction, backwards by the row or the slot string that was found. -/
theorem decodeOfEncodeIsTheInstruction : Obligations.DecodeOfEncodeIsTheInstruction :=
  ⟨fun _ => decode_encode, fun _ _ => encode_of_decodeFrame, fun _ _ => encode_of_decodeSlots⟩

/-- Settles O1: each word is closed, so the decoder computes its answer. -/
theorem writtenOutWordsDecode : Obligations.WrittenOutWordsDecode := by
  and_intros <;> rfl

/-- Settles O3. -/
theorem stepRunsTheDecodedInstruction : Obligations.StepRunsTheDecodedInstruction :=
  fun s _ rest _ decoded => step_call_of_ok (s := { s with script := .call _ :: rest }) rfl decoded

end Sys2Proof.Claims
end

section
/-!
PROOF. What each instruction is: a wave on the input line, one receive call, an answer that changes nothing, a call of
the transmit agent, RESET, or CFG_WRITE (R12). Proofs about `exec` go by these six kinds.
-/

namespace Sys2Proof.Claims

open Sys2Proof Sys2Proof.Machine

/-- What a single receive call does to the receive group under the ports. -/
def receiveCall : Instr → RxGroup → RxOut
  | .rxSample level t => rxSample level t
  | .rxRise t => rxRise t
  | .rxFall t => rxFall t
  | .rxStart t => rxStart t
  | .rxBit b t => rxBit b t
  | .rxComplete t => rxComplete t
  | .rxReport d t => rxReport d t
  | _ => quietly

theorem exec_singleCall {i : Instr} (single : singleCall i = true) (s : State) :
    exec i s = .next (s.takeRx (receiveCall i s.rx)) := by
  cases i with
  | rxSample level t => rfl
  | rxRise t => rfl
  | rxFall t => rfl
  | rxStart t => rfl
  | rxBit b t => rfl
  | rxComplete t => rfl
  | rxReport d t => rfl
  | _ => cases single

/-- The six kinds of instruction, each with its meaning in every state. -/
inductive Kind : Instr → Prop
  /-- a symbol or a frame on the input line -/
  | arrives {i : Instr} (ys : List Symbol) (dur : Time)
      (run : ∀ s, exec i s = .next (receiveWave (symbolSamples ys s.clock) dur s)) : Kind i
  /-- RX_SAMPLE or a sub-step of it -/
  | single {i : Instr} (single : singleCall i = true) : Kind i
  /-- ENCODE, DECODE, CLASSIFY -/
  | answers {i : Instr} (ds : RxGroup → List Delivery) (rs : RxGroup → List Reason)
      (run : ∀ s, exec i s = .next (s.answer (ds s.rx) (rs s.rx))) : Kind i
  /-- EMIT, SESSION_RUN, KEEPALIVE_TICK -/
  | transmit (c : TxCall) : Kind (callInstr c)
  | reset : Kind .reset
  | cfgWrite (no : Nat) (value : BitVec 16) : Kind (.cfgWrite no value)

theorem decode_kind (f : Frame) (filter : BitVec 16) : Kind (.decode f filter) := by
  cases h : packetDecode f filter with
  | ok d => exact .answers (fun _ => [.decoded (some d)]) (fun _ => []) (execDecode_of_ok h)
  | error r => exact .answers (fun _ => [.decoded none]) (fun _ => [r]) (execDecode_of_error h)

theorem frame_kind {i : Instr} (f : Frame) (run : ∀ s, exec i s = .next (receiveFrame f s)) : Kind i :=
  .arrives (frameSymbols f) _ run

theorem kind (i : Instr) : Kind i := by
  cases i with
  | led1 key power => exact frame_kind _ fun _ => rfl
  | beep1 key power => exact frame_kind _ fun _ => rfl
  | vibrate1 key power => exact frame_kind _ fun _ => rfl
  | zap1 key power => exact frame_kind _ fun _ => rfl
  | led2 key power => exact frame_kind _ fun _ => rfl
  | beep2 key power => exact frame_kind _ fun _ => rfl
  | vibrate2 key power => exact frame_kind _ fun _ => rfl
  | zap2 key power => exact frame_kind _ fun _ => rfl
  | start => exact .arrives [.start] _ fun _ => rfl
  | one => exact .arrives [.one] _ fun _ => rfl
  | zero => exact .arrives [.zero] _ fun _ => rfl
  | encode key chan cmd power => exact .answers (fun _ => _) (fun _ => _) fun _ => rfl
  | decode f filter => exact decode_kind f filter
  | classify w => exact .answers (fun rx => [.classified (classifyWidth rx.wStartHi w)]) (fun _ => []) fun _ => rfl
  | emit f => exact .transmit (.emit f)
  | sessionRun cmd sel power budget ce c => exact .transmit (.session cmd sel power budget ce c)
  | keepaliveTick => exact .transmit .keepalive
  | reset => exact .reset
  | cfgWrite no value => exact .cfgWrite no value
  | _ => exact .single rfl

theorem exec_callInstr (c : TxCall) (s : State) : exec (callInstr c) s = callTransmit c s := by
  cases c <;> rfl

theorem exec_cfgWrite (no : Nat) (value : BitVec 16) (s : State) :
    exec (.cfgWrite no value) s = .next ((writeConfig no value s).answer [] []) := rfl

end Sys2Proof.Claims
end

section
/-!
PROOF. What every receive call keeps: a property of receive groups that four moves keep (the line's level and rise, a
start marker, a data bit, a report) is kept by every call, since each call is made of them (R190 to R199).
-/

namespace Sys2Proof.Claims

open Sys2Proof Sys2Proof.Machine

/-- The four moves keep `P`, a report of those tuples only that are `fit`, as DECODE's are. -/
structure Stable (fit : Tuple → Prop) (P : RxGroup → Prop) : Prop where
  decodable : ∀ d, d.decodable = true → fit d
  line : ∀ rx level t, P rx → P { rx with lastLevel := level, tRise := t }
  start : ∀ rx t, P rx → P { rx with buf := 0#40, count := 0#6, tStart := t }
  append : ∀ rx b, rx.count.toNat < 40 → P rx → P (appendBit b rx)
  report : ∀ rx d t, fit d → P rx → P { rx with last := d, lastValid := true, tEnd := t }

namespace Stable

variable {fit : Tuple → Prop} {P : RxGroup → Prop} (stable : Stable fit P)
include stable

theorem rxReport {d : Tuple} (fits : fit d) (t : Time) {rx : RxGroup} (h : P rx) : P (rxReport d t rx).rx := by
  rw [rxReport_rx]
  exact stable.report rx d t fits h

theorem rxComplete (t : Time) {rx : RxGroup} (h : P rx) : P (rxComplete t rx).rx := by
  obtain ⟨r, discarded⟩ | ⟨d, decoded, -, -, reported⟩ := rxComplete_cases t rx
  · rw [discarded]
    exact h
  · rw [reported]
    exact stable.rxReport (stable.decodable d (packetDecode_decodable decoded)) t h

theorem rxBit (b : Bool) (t : Time) {rx : RxGroup} (h : P rx) : P (rxBit b t rx).rx := by
  obtain ⟨-, ignored⟩ | ⟨few, appended⟩ | ⟨last, completed⟩ := rxBit_cases b t rx
  · rw [ignored]
    exact h
  · rw [appended]
    exact stable.append rx b (by omega) h
  · rw [completed]
    exact stable.rxComplete t (stable.append rx b (by omega) h)

theorem rxStart (t : Time) {rx : RxGroup} (h : P rx) : P (rxStart t rx).rx := by
  rw [(rxStart_eq t rx).1]
  exact stable.start rx t h

theorem rxFall (t : Time) {rx : RxGroup} (h : P rx) : P (rxFall t rx).rx := by
  obtain noise | start | ⟨b, bit⟩ := rxFall_cases t rx
  · rw [noise]
    exact h
  · rw [start]
    exact stable.rxStart t h
  · rw [bit]
    exact stable.rxBit b t h

theorem rxSample (level : Bool) (t : Time) (rx : RxGroup) (h : P rx) : P (rxSample level t rx).rx := by
  obtain ⟨-, same⟩ | ⟨-, -, rise⟩ | ⟨-, -, fall⟩ := rxSample_cases level t rx
  · rw [same]
    exact h
  · rw [rise]
    exact stable.line rx true t h
  · rw [fall]
    exact stable.rxFall t (stable.line rx false rx.tRise h)

theorem rxFeed (es : List (Bool × Time)) {rx : RxGroup} (h : P rx) : P (rxFeed es rx).rx :=
  rxFeed_induction stable.rxSample es rx h

theorem receiveCall {i : Instr} (fits : ∀ d t, i = .rxReport d t → fit d) {rx : RxGroup} (h : P rx) :
    P (receiveCall i rx).rx := by
  cases i with
  | rxSample level t => exact stable.rxSample level t rx h
  | rxRise t => exact stable.line rx rx.lastLevel t h
  | rxFall t => exact stable.rxFall t h
  | rxStart t => exact stable.rxStart t h
  | rxBit b t => exact stable.rxBit b t h
  | rxComplete t => exact stable.rxComplete t h
  | rxReport d t => exact stable.rxReport (fits d t rfl) t h
  | _ => exact h

end Stable

theorem appendBit_count {rx : RxGroup} (few : rx.count.toNat < 40) (b : Bool) :
    (appendBit b rx).count.toNat = rx.count.toNat + 1 := by
  simp only [appendBit, BitVec.toNat_add, BitVec.toNat_ofNat]
  omega

/-- The receive invariant (R203): a data bit goes to the top end of the buffer's zero tail. -/
theorem ok_stable : Stable (·.decodable = true) RxGroup.Ok where
  decodable _ h := h
  line _ _ _ ok := ok
  start := by
    rintro rx t ⟨-, -, valid, invalid⟩
    exact ⟨.inl (Nat.zero_le _), fun _ i _ => BitVec.getLsbD_zero, valid, invalid⟩
  append := by
    rintro rx b few ⟨-, tail, valid, invalid⟩
    have count := appendBit_count few b
    refine ⟨.inl (by omega), fun _ i hi => ?_, valid, invalid⟩
    exact (appendBit_buf b rx i).trans ((if_neg (by omega)).trans (tail few i (by omega)))
  report := by
    rintro rx d t decodable ⟨count, tail, -, -⟩
    exact ⟨count, tail, fun _ => decodable, fun invalid => absurd invalid (by simp)⟩

theorem count_ne_idle {c : BitVec 6} (h : c.toNat < 63) : c ≠ 63#6 := by
  rintro rfl
  exact absurd h (by decide)

/-- A counter that is not 63 does not become 63. -/
theorem started_stable : Stable (fun _ => True) (·.count ≠ 63#6) where
  decodable _ _ := trivial
  line _ _ _ started := started
  start _ _ _ := count_ne_idle (Nat.zero_lt_succ _)
  append rx b few _ := count_ne_idle (by rw [appendBit_count few]; omega)
  report _ _ _ _ started := started

/-- The two registers of a receive group (R44) are written by no receive call. -/
theorem config_stable (key : BitVec 16) (hi : BitVec 12) :
    Stable (fun _ => True) (fun rx => rx.keyFilter = key ∧ rx.wStartHi = hi) where
  decodable _ _ := trivial
  line _ _ _ h := h
  start _ _ h := h
  append _ _ _ h := h
  report _ _ _ _ h := h

theorem rxReset_ok : RxGroup.reset.Ok :=
  ⟨.inr rfl, fun _ _ _ => BitVec.getLsbD_zero, fun valid => absurd valid (by decide), fun _ => rfl⟩

end Sys2Proof.Claims
end

section
/-!
PROOF. The invariant of the transmit side (R25, R151, R157, R68 (1)), and how `tx_sym` and the waiting calls move:
transmitter, session and beginning of a call, then any transition of the agent.
-/

namespace Sys2Proof.Claims

open Sys2Proof Sys2Proof.Machine

/-- The three situations of the transmitter: idle, in or before a symbol, after the trailer (R25, R157). -/
theorem txOk_iff (tx : TxGroup) : tx.Ok ↔
    (tx.sym = 63#6 ∧ tx.out = false ∧ tx.active = false ∧ tx.gap = false) ∨
    (tx.sym.toNat ≤ 41 ∧ tx.active = true ∧ tx.gap = false ∧ leadIn tx.frame = true) ∨
    (tx.sym = 42#6 ∧ tx.out = false ∧ tx.active = (!tx.gap) ∧ leadIn tx.frame = true) := by
  have lead : leadIn tx.frame = tx.frame.getLsbD 39 := rfl
  unfold TxGroup.Ok
  rw [lead]
  constructor
  · rintro ⟨sym, out, active, gap, frame⟩
    by_cases idle : tx.sym = 63#6
    · simp_all
    · by_cases h42 : tx.sym = 42#6
      · cases hg : tx.gap <;> simp_all
      · have ne42 : tx.sym.toNat ≠ 42 := fun c => h42 (BitVec.eq_of_toNat_eq c)
        have few : tx.sym.toNat ≤ 41 := by
          have := sym.resolve_right idle
          omega
        simp_all
  · rintro (⟨sym, out, active, gap⟩ | ⟨sym, active, gap, frame⟩ | ⟨sym, out, active, frame⟩)
    · simp [sym, out, active, gap]
    · simp [sym, active, gap, frame]
      omega
    · cases hg : tx.gap <;> simp_all

/-- How `tx_sym` moves (R25). -/
def Advances (a b : BitVec 6) : Prop :=
  b = a ∨ (a = 63#6 ∧ b = 0#6) ∨ (a.toNat < 42 ∧ b = a + 1#6) ∨ (a = 42#6 ∧ b = 63#6)

/-- A transition of the transmitter leaves session and waiting calls alone. -/
theorem txTurn_frame (s : State) :
    (txTurn s).ses = s.ses ∧ (txTurn s).tx.byHost = s.tx.byHost ∧ (txTurn s).txCalls = s.txCalls := by
  obtain ⟨-, h⟩ | ⟨-, -, h⟩ | ⟨-, -, -, h⟩ | ⟨-, -, -, h⟩ | ⟨-, -, h⟩ := txTurn_cases s <;> rw [h] <;>
    simp [txFall, txRise, txGapStart, txReturn]

/-- A symbol is in progress while the line is on. -/
theorem sym_of_out {tx : TxGroup} (ok : tx.Ok) (out : tx.out = true) : tx.sym.toNat ≤ 41 := ok.2.1 out

theorem txTurn_ok {s : State} (ok : s.tx.Ok) : (txTurn s).tx.Ok := by
  have situation := (txOk_iff s.tx).mp ok
  obtain ⟨out, h⟩ | ⟨out, few, h⟩ | ⟨out, sym, gap, h⟩ | ⟨out, sym, gap, h⟩ | ⟨-, -, h⟩ := txTurn_cases s <;>
    rw [h, State.answer_tx]
  · have few := sym_of_out ok out
    obtain ⟨sym, -⟩ | ⟨-, active, gap, frame⟩ | ⟨sym, -⟩ := situation
    · simp [sym] at few
    · have next : (s.tx.sym + 1#6).toNat = s.tx.sym.toNat + 1 := by
        rw [BitVec.toNat_add, BitVec.toNat_ofNat]
        omega
      by_cases last : s.tx.sym.toNat = 41
      · exact (txOk_iff _).mpr (.inr (.inr
          ⟨BitVec.eq_of_toNat_eq (by rw [txFall, next, last]; rfl), rfl, by simp [txFall, active, gap], frame⟩))
      · exact (txOk_iff _).mpr (.inr (.inl ⟨by simp only [txFall, next]; omega, active, gap, frame⟩))
    · simp [sym] at few
  · obtain ⟨sym, -⟩ | ⟨-, active, gap, frame⟩ | ⟨sym, -⟩ := situation
    · simp [sym] at few
    · exact (txOk_iff _).mpr (.inr (.inl ⟨by simp only [txRise]; omega, active, gap, frame⟩))
    · simp [sym] at few
  · have frame : leadIn s.tx.frame = true := ok.2.2.2.2 (by simp [sym])
    exact (txOk_iff _).mpr (.inr (.inr (by simp [txGapStart, sym, out, frame])))
  · have active : s.tx.active = false := by simpa [sym, gap] using ok.2.2.1
    exact (txOk_iff _).mpr (.inl ⟨rfl, out, active, rfl⟩)
  · exact ok

theorem txTurn_advances {s : State} (ok : s.tx.Ok) : Advances s.tx.sym (txTurn s).tx.sym := by
  obtain ⟨out, h⟩ | ⟨-, -, h⟩ | ⟨-, -, -, h⟩ | ⟨-, sym, -, h⟩ | ⟨-, -, h⟩ := txTurn_cases s <;> rw [h, State.answer_tx]
  · exact .inr (.inr (.inl ⟨Nat.lt_succ_of_le (sym_of_out ok out), rfl⟩))
  · exact .inl rfl
  · exact .inl (by simp [txGapStart])
  · exact .inr (.inr (.inr ⟨sym, rfl⟩))
  · exact .inl rfl

theorem startEmission_ok {f : Frame} (lead : leadIn f = true) (byHost : Bool) (s : State) :
    (startEmission byHost f s).tx.Ok :=
  (txOk_iff _).mpr (.inr (.inl ⟨Nat.zero_le _, rfl, rfl, lead⟩))

/-- What a step of a running session does to transmitter and session (R173). -/
theorem sessionTurn_cases {s : State} (running : s.ses.phase ≠ .idle) :
    (∃ r, (sessionTurn s).tx = s.tx ∧ (sessionTurn s).ses = { s.ses with phase := .idle, result := r, done := true }) ∨
    ((sessionTurn s).tx = s.tx ∧ (sessionTurn s).ses = { s.ses with phase := .round 0 }) ∨
    (∃ i, s.ses.phase = .round i ∧ i < s.ses.n.toNat ∧
      (sessionTurn s).tx = (startEmission false (s.ses.frame i) s).tx ∧
      (sessionTurn s).ses = { s.ses with phase := .round (i + 1) }) ∨
    ((sessionTurn s).tx = s.tx ∧ (sessionTurn s).ses = { s.ses with phase := .check, round := s.ses.round + 1#32 }) := by
  cases phase : s.ses.phase with
  | idle => exact absurd phase running
  | check =>
    have turn : sessionTurn s = sessionCheck s := by simp only [sessionTurn, phase]
    rw [turn]
    obtain ⟨p, rfl | rfl, ⟨r, ended⟩ | begun⟩ := sessionCheck_cases s
    · exact .inl ⟨r, by rw [ended]; exact ⟨rfl, rfl⟩⟩
    · exact .inr (.inl (by rw [begun]; exact ⟨rfl, rfl⟩))
    · exact .inl ⟨r, by rw [ended]; exact ⟨rfl, rfl⟩⟩
    · exact .inr (.inl (by rw [begun]; exact ⟨rfl, rfl⟩))
  | round i =>
    have turn : sessionTurn s = sessionRound i s := by simp only [sessionTurn, phase]
    rw [turn, sessionRound]
    split
    · next more => exact .inr (.inr (.inl ⟨i, rfl, more, rfl, rfl⟩))
    · exact .inr (.inr (.inr ⟨rfl, rfl⟩))

theorem sessionTurn_txCalls (s : State) : (sessionTurn s).txCalls = s.txCalls := by
  cases phase : s.ses.phase with
  | idle => simp [sessionTurn, phase]
  | check =>
    simp only [sessionTurn, phase]
    obtain ⟨p, rfl | rfl, ⟨r, h⟩ | h⟩ := sessionCheck_cases s <;> rw [h] <;> rfl
  | round i =>
    simp only [sessionTurn, phase, sessionRound]
    split <;> rfl

/-- What the beginning of a session does to transmitter and session: a refusal, or at most two frames fit to be sent
(R172, R176). -/
theorem startSession_tx_ses (cmd : BitVec 3) (sel : BitVec 2) (power : BitVec 8) (budget : BitVec 32) (ce k : Bool)
    (s : State) :
    (startSession cmd sel power budget ce k s).tx = s.tx ∧
    ((startSession cmd sel power budget ce k s).ses.phase = s.ses.phase ∨
      ∃ f fs, fs.length ≤ 1 ∧ (∀ g ∈ f :: fs, leadIn g = true) ∧
        (startSession cmd sel power budget ce k s).ses = (beginSession f fs budget ce k s).ses) := by
  obtain ⟨r, h⟩ | ⟨f, fs, encoded, h⟩ := startSession_cases cmd sel power budget ce k s <;> rw [h]
  · exact ⟨rfl, .inl rfl⟩
  · obtain ⟨length, lead⟩ := encodeChannels_leadIn encoded
    have two := selected_length sel
    rw [← length, List.length_cons] at two
    exact ⟨rfl, .inr ⟨f, fs, by omega, lead, rfl⟩⟩

/-- What the beginning of a call does to transmitter and session: an emission of the host's, a session, or neither. -/
theorem beginCall_tx_ses (c : TxCall) (s : State) :
    ((beginCall c s).tx = s.tx ∧ (beginCall c s).ses.phase = s.ses.phase) ∨
    (∃ f, leadIn f = true ∧ (beginCall c s).tx = (startEmission true f s).tx ∧ (beginCall c s).ses = s.ses) ∨
    (∃ f fs budget ce k, fs.length ≤ 1 ∧ (∀ g ∈ f :: fs, leadIn g = true) ∧ (beginCall c s).tx = s.tx ∧
      (beginCall c s).ses = (beginSession f fs budget ce k s).ses) := by
  cases c with
  | emit f =>
    obtain ⟨lead, h⟩ | ⟨-, h⟩ := beginEmit_cases f s <;> rw [beginCall, h]
    · exact .inr (.inl ⟨f, lead, rfl, rfl⟩)
    · exact .inl ⟨rfl, rfl⟩
  | session cmd sel power budget ce c =>
    obtain ⟨tx, phase | ⟨f, fs, one, lead, ses⟩⟩ := startSession_tx_ses cmd sel power budget ce false { s with cancel := c }
    · exact .inl ⟨tx, phase⟩
    · exact .inr (.inr ⟨f, fs, budget, ce, false, one, lead, tx, ses⟩)
  | keepalive =>
    obtain ⟨-, h⟩ | ⟨-, h⟩ := beginKeepalive_cases s <;> rw [beginCall, h]
    · obtain ⟨tx, phase | ⟨f, fs, one, lead, ses⟩⟩ := startSession_tx_ses 1#3 s.ka.mask Config.keepalivePower
        (BitVec.ofInt 32 (-(Config.keepaliveRepeats : Int))) false true s
      · exact .inl ⟨tx, phase⟩
      · exact .inr (.inr ⟨f, fs, _, false, true, one, lead, tx, ses⟩)
    · exact .inl ⟨rfl, rfl⟩

/-- Transmitter and session are as they should be. -/
def TransmitOk (s : State) : Prop := s.tx.Ok ∧ s.SesOk

/-- With no emission in progress, the session's own condition is all. -/
theorem transmitOk_of_notBusy {s : State} (tx : s.tx.Ok) (sym : s.tx.sym = 63#6) (ses : s.ses.Ok) : TransmitOk s :=
  ⟨tx, ses, fun busy => absurd sym busy, fun busy => absurd sym busy⟩

theorem sesOk_of_idle {ses : SesGroup} (idle : ses.phase = .idle) : ses.Ok := fun running => absurd idle running

theorem txTurn_transmitOk {s : State} (busy : s.tx.busy = true) (ok : TransmitOk s) : TransmitOk (txTurn s) := by
  obtain ⟨tx, ses, bySession, byHost⟩ := ok
  obtain ⟨sameSes, sameHost, -⟩ := txTurn_frame s
  have sym := (busy_iff s.tx).mp busy
  refine ⟨txTurn_ok tx, ?_⟩
  unfold State.SesOk
  rw [sameSes, sameHost]
  exact ⟨ses, fun _ => bySession sym, fun _ => byHost sym⟩

/-- The frame that a round sends next is one of the session's, fit to be sent. -/
theorem sesFrame_leadIn {ses : SesGroup} (ok : ses.Ok) (running : ses.phase ≠ .idle) {i : Nat} (more : i < ses.n.toNat) :
    leadIn (ses.frame i) = true := by
  obtain ⟨n, frame0, frame1, -⟩ := ok running
  unfold SesGroup.frame
  split
  · exact frame0
  · obtain n | n := n
    · simp only [n, BitVec.toNat_ofNat] at more
      omega
    · exact frame1 n

theorem sessionTurn_transmitOk {s : State} (sym : s.tx.sym = 63#6) (running : s.ses.phase ≠ .idle) (ok : TransmitOk s) :
    TransmitOk (sessionTurn s) := by
  obtain ⟨txOk, sesOk, -⟩ := ok
  obtain ⟨n, frame0, frame1, place⟩ := sesOk running
  obtain ⟨r, tx, ses⟩ | ⟨tx, ses⟩ | ⟨i, phase, more, tx, ses⟩ | ⟨tx, ses⟩ := sessionTurn_cases running
  · exact transmitOk_of_notBusy (tx ▸ txOk) (tx ▸ sym) (sesOk_of_idle (by rw [ses]))
  · refine transmitOk_of_notBusy (tx ▸ txOk) (tx ▸ sym) (ses ▸ fun _ => ⟨n, frame0, frame1, ?_⟩)
    rintro i ⟨⟩
    exact Nat.zero_le _
  · unfold TransmitOk State.SesOk
    rw [tx, ses]
    refine ⟨startEmission_ok (sesFrame_leadIn sesOk running more) false s, fun _ => ⟨n, frame0, frame1, ?_⟩,
      fun _ _ => ⟨i, rfl⟩, fun _ byHost => absurd byHost (by simp [startEmission])⟩
    rintro j ⟨⟩
    exact more
  · refine transmitOk_of_notBusy (tx ▸ txOk) (tx ▸ sym) (ses ▸ fun _ => ⟨n, frame0, frame1, ?_⟩)
    rintro i ⟨⟩

/-- The session that begins has one or two frames, and its loop has not begun its round (R170). -/
theorem beginSession_ok {f : Frame} {fs : List Frame} (one : fs.length ≤ 1) (lead : ∀ g ∈ f :: fs, leadIn g = true)
    (budget : BitVec 32) (ce k : Bool) (s : State) : (beginSession f fs budget ce k s).ses.Ok := by
  refine fun _ => ⟨?_, lead f (List.mem_cons_self ..), fun two => ?_, ?_⟩
  · cases fs with
    | nil => exact .inl rfl
    | cons g gs =>
      obtain rfl := List.eq_nil_of_length_eq_zero (Nat.le_zero.mp (Nat.le_of_succ_le_succ one))
      exact .inr rfl
  · cases fs with
    | nil => exact absurd two (by simp [beginSession])
    | cons g gs => exact lead g (by simp)
  · rintro i ⟨⟩

theorem beginCall_transmitOk (c : TxCall) {s : State} (sym : s.tx.sym = 63#6) (idle : s.ses.phase = .idle)
    (ok : TransmitOk s) : TransmitOk (beginCall c s) := by
  obtain ⟨tx, phase⟩ | ⟨f, lead, tx, ses⟩ | ⟨f, fs, budget, ce, k, one, lead, tx, ses⟩ := beginCall_tx_ses c s
  · exact transmitOk_of_notBusy (tx ▸ ok.1) (tx ▸ sym) (sesOk_of_idle (phase.trans idle))
  · unfold TransmitOk State.SesOk
    rw [tx, ses]
    exact ⟨startEmission_ok lead true s, sesOk_of_idle idle, fun _ bySession => absurd bySession (by simp [startEmission]),
      fun _ _ => idle⟩
  · exact transmitOk_of_notBusy (tx ▸ ok.1) (tx ▸ sym) (ses ▸ beginSession_ok one lead budget ce k s)

theorem agentTurn_transmitOk (m : Time) {s : State} (ok : TransmitOk s) : TransmitOk (agentTurn m s) := by
  obtain ⟨busy, h⟩ | ⟨free, running, h⟩ | ⟨-, -, -, h⟩ | ⟨c, cs, free, idle, -, h⟩ := agentTurn_cases m s <;> rw [h]
  · exact txTurn_transmitOk (s := s.clockTo m) busy ok
  · exact sessionTurn_transmitOk ((busy_eq_false _).mp free) running ok
  · exact ok
  · exact beginCall_transmitOk c (s := { s with txCalls := cs }) ((busy_eq_false _).mp free) idle ok

end Sys2Proof.Claims
end

section
/-!
PROOF. One step seen from the transmit side, from the script and from the receive instances; with these three, the
invariant, the order of `tx_sym` and the order of the calls.
-/

namespace Sys2Proof.Claims

open Sys2Proof Sys2Proof.Machine

/-! ## The transmit side -/

/-- Transmitter, session and waiting calls are as they were, but for `tx_key`. -/
structure TransmitKept (s t : State) : Prop where
  tx : ∃ key, t.tx = { s.tx with key := key }
  ses : t.ses = s.ses
  txCalls : t.txCalls = s.txCalls

theorem writeConfig_transmitKept (no : Nat) (value : BitVec 16) (s : State) :
    TransmitKept s (writeConfig no value s) := by
  unfold writeConfig
  split_ifs
  · exact ⟨⟨value, rfl⟩, rfl, rfl⟩
  all_goals exact ⟨⟨s.tx.key, rfl⟩, rfl, rfl⟩

/-- An instruction is RESET, or a call of the agent, or leaves the transmit side alone. -/
theorem exec_transmit_cases {i : Instr} {s t : State} (run : exec i s = .next t) :
    i = .reset ∨ (∃ c, i = callInstr c ∧ callTransmit c s = .next t) ∨ TransmitKept s t := by
  cases kind i with
  | arrives ys dur meaning =>
    cases (meaning s).symm.trans run
    exact .inr (.inr ⟨⟨s.tx.key, rfl⟩, rfl, rfl⟩)
  | single single =>
    cases (exec_singleCall single s).symm.trans run
    exact .inr (.inr ⟨⟨s.tx.key, rfl⟩, rfl, rfl⟩)
  | answers ds rs meaning =>
    cases (meaning s).symm.trans run
    exact .inr (.inr ⟨⟨s.tx.key, rfl⟩, rfl, rfl⟩)
  | transmit c => exact .inr (.inl ⟨c, rfl, (exec_callInstr c s).symm.trans run⟩)
  | reset => exact .inl rfl
  | cfgWrite no value =>
    cases (exec_cfgWrite no value s).symm.trans run
    obtain ⟨tx, ses, calls⟩ := writeConfig_transmitKept no value s
    exact .inr (.inr ⟨tx, ses, calls⟩)

/-- A step is a transition of the agent, a call of it, RESET, or leaves the transmit side alone. -/
theorem step_transmit_cases {s t : State} (run : step s = .next t) :
    (∃ m, t = agentTurn m s) ∨
    (∃ r rest c, s.script = .call r :: rest ∧ decode r = .ok (callInstr c) ∧
      callTransmit c { s with script := rest } = .next t) ∨
    (∃ r rest, s.script = .call r :: rest ∧ decode r = .ok .reset ∧ execReset { s with script := rest } = .next t) ∨
    TransmitKept s t := by
  obtain ⟨-, rfl⟩ | ⟨r, rest, i, script, decoded, run⟩ | ⟨r, rest, e, -, -, rfl⟩ | ⟨u, rest, -, rfl⟩ |
    ⟨u, rest, -, rfl⟩ | ⟨b, rest, -, rfl⟩ | ⟨rest, -, rfl⟩ | ⟨rest, -, rfl⟩ := step_cases run
  · obtain ⟨m, -, h⟩ | ⟨-, h⟩ := passFreely_cases s
    · exact .inl ⟨m, h⟩
    · exact .inr (.inr (.inr (h ▸ ⟨⟨s.tx.key, rfl⟩, rfl, rfl⟩)))
  · obtain rfl | ⟨c, rfl, call⟩ | ⟨tx, ses, calls⟩ := exec_transmit_cases run
    · exact .inr (.inr (.inl ⟨r, rest, script, decoded, run⟩))
    · exact .inr (.inl ⟨r, rest, c, script, decoded, call⟩)
    · exact .inr (.inr (.inr ⟨tx, ses, calls⟩))
  · obtain ⟨es, dur, h⟩ | h := receiveUnlisted_cases r { s with script := rest } <;>
      exact .inr (.inr (.inr (h ▸ ⟨⟨s.tx.key, rfl⟩, rfl, rfl⟩)))
  · obtain ⟨m, -, -, h⟩ | h := passUntil_cases u rest s
    · exact .inl ⟨m, h⟩
    · exact .inr (.inr (.inr (h ▸ ⟨⟨s.tx.key, rfl⟩, rfl, rfl⟩)))
  · exact .inr (.inr (.inr ⟨⟨s.tx.key, rfl⟩, rfl, rfl⟩))
  · exact .inr (.inr (.inr ⟨⟨s.tx.key, rfl⟩, rfl, rfl⟩))
  · exact .inr (.inr (.inr ⟨⟨s.tx.key, rfl⟩, rfl, rfl⟩))
  · obtain h | ⟨r, rs, -, h⟩ := nextInstance_cases { s with script := rest } <;>
      exact .inr (.inr (.inr (h ▸ ⟨⟨s.tx.key, rfl⟩, rfl, rfl⟩)))

theorem TransmitKept.transmitOk {s t : State} (kept : TransmitKept s t) (ok : TransmitOk s) : TransmitOk t := by
  obtain ⟨⟨key, tx⟩, ses, -⟩ := kept
  unfold TransmitOk State.SesOk
  rw [tx, ses]
  exact ok

theorem execReset_transmitOk {s t : State} (run : execReset s = .next t) : TransmitOk t := by
  cases run
  exact transmitOk_of_notBusy ((txOk_iff _).mpr (.inl ⟨rfl, rfl, rfl, rfl⟩)) rfl (sesOk_of_idle rfl)

theorem callTransmit_transmitOk {c : TxCall} {s t : State} (run : callTransmit c s = .next t) (ok : TransmitOk s) :
    TransmitOk t := by
  obtain ⟨-, h⟩ | ⟨-, -, h⟩ | ⟨free, finished, h⟩ := callTransmit_cases c s <;> cases h.symm.trans run
  · exact ok
  · exact ok
  · exact beginCall_transmitOk c ((busy_eq_false _).mp free) ((callsUnfinished_eq_false s).mp finished).1 ok

theorem step_transmitOk {s t : State} (run : step s = .next t) (ok : TransmitOk s) : TransmitOk t := by
  obtain ⟨m, rfl⟩ | ⟨r, rest, c, -, -, call⟩ | ⟨r, rest, -, -, reset⟩ | kept := step_transmit_cases run
  · exact agentTurn_transmitOk m ok
  · exact callTransmit_transmitOk (s := { s with script := rest }) call ok
  · exact execReset_transmitOk reset
  · exact kept.transmitOk ok

/-! ## The script -/

/-- An instruction takes nothing off the script; a wave on the line puts the clock's run in front (log entry 5). -/
theorem exec_script {i : Instr} {s t : State} (run : exec i s = .next t) :
    t.script = s.script ∨ ∃ u, t.script = .clock u :: s.script := by
  cases kind i with
  | arrives ys dur meaning =>
    cases (meaning s).symm.trans run
    exact .inr ⟨_, rfl⟩
  | single single =>
    cases (exec_singleCall single s).symm.trans run
    exact .inl rfl
  | answers ds rs meaning =>
    cases (meaning s).symm.trans run
    exact .inl rfl
  | transmit c =>
    obtain ⟨-, h⟩ | ⟨-, -, h⟩ | ⟨-, -, h⟩ := callTransmit_cases c s <;>
      cases h.symm.trans ((exec_callInstr c s).symm.trans run)
    · exact .inl rfl
    · exact .inl rfl
    · exact .inl (beginCall_kept c s).script
  | reset =>
    cases run
    exact .inl rfl
  | cfgWrite no value =>
    cases run
    left
    simp only [State.answer_script, writeConfig]
    split_ifs <;> rfl

/-- The requests of the new script were in the old one. -/
def CallsFrom (old new : List Turn) : Prop := ∀ r, Turn.call r ∈ new → Turn.call r ∈ old

theorem callsFrom_tail {old new rest : List Turn} {turn : Turn} (script : old = turn :: rest)
    (new_eq : new = rest ∨ ∃ u, new = .clock u :: rest) : CallsFrom old new := by
  intro r mem
  rw [script]
  obtain rfl | ⟨u, rfl⟩ := new_eq
  · exact List.mem_cons_of_mem _ mem
  · exact List.mem_cons_of_mem _ (by simpa using mem)

theorem step_script {s t : State} (run : step s = .next t) : CallsFrom s.script t.script := by
  have kept (m : Time) : CallsFrom s.script (agentTurn m s).script :=
    fun r mem => (agentTurn_kept m s).script ▸ mem
  obtain ⟨-, rfl⟩ | ⟨r, rest, i, script, -, run⟩ | ⟨r, rest, e, script, -, rfl⟩ | ⟨u, rest, script, rfl⟩ |
    ⟨u, rest, script, rfl⟩ | ⟨b, rest, script, rfl⟩ | ⟨rest, script, rfl⟩ | ⟨rest, script, rfl⟩ := step_cases run
  · obtain ⟨m, -, h⟩ | ⟨-, h⟩ := passFreely_cases s <;> rw [h]
    · exact kept m
    · exact fun _ mem => mem
  · exact callsFrom_tail script (exec_script run)
  · obtain ⟨es, dur, h⟩ | h := receiveUnlisted_cases r { s with script := rest } <;> rw [h]
    · exact callsFrom_tail script (.inr ⟨_, rfl⟩)
    · exact callsFrom_tail script (.inl rfl)
  · obtain ⟨m, -, -, h⟩ | h := passUntil_cases u rest s <;> rw [h]
    · exact kept m
    · exact callsFrom_tail script (.inl rfl)
  · exact callsFrom_tail script (.inl rfl)
  · exact callsFrom_tail script (.inl rfl)
  · exact callsFrom_tail script (.inl rfl)
  · obtain h | ⟨q, rs, -, h⟩ := nextInstance_cases { s with script := rest } <;> rw [h] <;>
      exact callsFrom_tail script (.inl rfl)

/-! ## The receive instances -/

/-- Every receive group satisfies the receive invariant. -/
def InstancesOk (s : State) : Prop := s.rx.Ok ∧ ∀ rx ∈ s.rxOthers, rx.Ok

theorem instancesOk_of_same {s t : State} (rx : t.rx = s.rx) (others : t.rxOthers = s.rxOthers) (ok : InstancesOk s) :
    InstancesOk t := by
  unfold InstancesOk
  rw [rx, others]
  exact ok

/-- Whatever is stable under the receive calls is kept by every instruction but RESET, and CFG_WRITE where its
registers do not matter. -/
theorem exec_stable {fit : Tuple → Prop} {P : RxGroup → Prop} (stable : Stable fit P) {i : Instr} {s t : State}
    (config : ∀ no value, i = .cfgWrite no value →
      ∀ rx key hi, P rx → P { rx with keyFilter := key, wStartHi := hi })
    (fits : ∀ d t, i = .rxReport d t → fit d) (other : i ≠ .reset) (run : exec i s = .next t) (h : P s.rx) : P t.rx := by
  cases kind i with
  | arrives ys dur meaning =>
    cases (meaning s).symm.trans run
    exact stable.rxFeed _ h
  | single single =>
    cases (exec_singleCall single s).symm.trans run
    exact stable.receiveCall fits h
  | answers ds rs meaning =>
    cases (meaning s).symm.trans run
    exact h
  | transmit c =>
    obtain ⟨-, e⟩ | ⟨-, -, e⟩ | ⟨-, -, e⟩ := callTransmit_cases c s <;>
      cases e.symm.trans ((exec_callInstr c s).symm.trans run)
    · exact h
    · exact h
    · exact (beginCall_kept c s).rx ▸ h
  | reset => exact absurd rfl other
  | cfgWrite no value =>
    cases run
    rw [State.answer_rx, writeConfig]
    split_ifs
    · exact h
    · exact config no value rfl s.rx value s.rx.wStartHi h
    · exact h
    · exact config no value rfl s.rx s.rx.keyFilter (value.setWidth 12) h
    · exact h

/-- No instruction but RESET touches the other receive instances (R252, log entry 17). -/
theorem exec_rxOthers {i : Instr} {s t : State} (other : i ≠ .reset) (run : exec i s = .next t) :
    t.rxOthers = s.rxOthers := by
  cases kind i with
  | arrives ys dur meaning =>
    cases (meaning s).symm.trans run
    rfl
  | single single =>
    cases (exec_singleCall single s).symm.trans run
    rfl
  | answers ds rs meaning =>
    cases (meaning s).symm.trans run
    rfl
  | transmit c =>
    obtain ⟨-, e⟩ | ⟨-, -, e⟩ | ⟨-, -, e⟩ := callTransmit_cases c s <;>
      cases e.symm.trans ((exec_callInstr c s).symm.trans run)
    · rfl
    · rfl
    · exact (beginCall_kept c s).rxOthers
  | reset => exact absurd rfl other
  | cfgWrite no value =>
    cases run
    rw [State.answer_rxOthers, writeConfig]
    split_ifs <;> rfl

theorem exec_instancesOk {i : Instr} {s t : State} (wf : WellFormed i = true) (run : exec i s = .next t)
    (ok : InstancesOk s) : InstancesOk t := by
  by_cases reset : i = .reset
  · subst reset
    cases run
    refine ⟨rxReset_ok, fun rx mem => ?_⟩
    obtain ⟨_, -, rfl⟩ := List.mem_map.mp mem
    exact rxReset_ok
  · refine ⟨exec_stable ok_stable (fun _ _ _ _ _ _ h => h) ?_ reset run ok.1, exec_rxOthers reset run ▸ ok.2⟩
    rintro d t rfl
    exact wf

theorem receiveUnlisted_instancesOk (r : Request) {s : State} (ok : InstancesOk s) :
    InstancesOk (receiveUnlisted r s) := by
  obtain ⟨es, dur, h⟩ | h := receiveUnlisted_cases r s <;> rw [h]
  · exact ⟨ok_stable.rxFeed es ok.1, ok.2⟩
  · exact ok

/-- Instances come under the ports in turn, and a new one is in its reset state. -/
theorem nextInstance_instancesOk {s : State} (ok : InstancesOk s) : InstancesOk (nextInstance s) := by
  obtain h | ⟨r, rs, others, h⟩ := nextInstance_cases s <;> rw [h]
  · exact ok
  · obtain ⟨rx, all⟩ := ok
    rw [others] at all
    refine ⟨all r (List.mem_cons_self ..), fun q mem => ?_⟩
    obtain mem | mem := List.mem_append.mp mem
    · exact all q (List.mem_cons_of_mem _ mem)
    · exact List.mem_singleton.mp mem ▸ rx

theorem newInstance_instancesOk {s : State} (ok : InstancesOk s) : InstancesOk (newInstance s) := by
  refine ⟨rxReset_ok, fun q mem => ?_⟩
  obtain mem | mem := List.mem_append.mp mem
  · exact ok.2 q mem
  · exact List.mem_singleton.mp mem ▸ ok.1

theorem step_instancesOk {s t : State} (wf : s.ScriptOk) (run : step s = .next t) (ok : InstancesOk s) :
    InstancesOk t := by
  have kept (m : Time) : InstancesOk (agentTurn m s) :=
    instancesOk_of_same (agentTurn_kept m s).rx (agentTurn_kept m s).rxOthers ok
  obtain ⟨-, rfl⟩ | ⟨r, rest, i, script, decoded, run⟩ | ⟨r, rest, e, -, -, rfl⟩ | ⟨u, rest, -, rfl⟩ |
    ⟨u, rest, -, rfl⟩ | ⟨b, rest, -, rfl⟩ | ⟨rest, -, rfl⟩ | ⟨rest, -, rfl⟩ := step_cases run
  · obtain ⟨m, -, h⟩ | ⟨-, h⟩ := passFreely_cases s <;> rw [h]
    · exact kept m
    · exact ok
  · exact exec_instancesOk (wf r (by simp [script]) i decoded) run ok
  · exact receiveUnlisted_instancesOk r (s := { s with script := rest }) ok
  · obtain ⟨m, -, -, h⟩ | h := passUntil_cases u rest s <;> rw [h]
    · exact kept m
    · exact ok
  · exact ok
  · exact ok
  · exact newInstance_instancesOk (s := { s with script := rest }) ok
  · exact nextInstance_instancesOk (s := { s with script := rest }) ok

/-! ## The invariant -/

theorem step_inv {s t : State} (inv : s.Inv) (run : step s = .next t) : t.Inv := by
  obtain ⟨rx, others, tx, ses, script⟩ := inv
  obtain ⟨rx', others'⟩ := step_instancesOk script run ⟨rx, others⟩
  obtain ⟨tx', ses'⟩ := step_transmitOk run ⟨tx, ses⟩
  exact ⟨rx', others', tx', ses', fun r mem => script r (step_script run r mem)⟩

/-- Settles O7: the invariant part by part, and the counter as one more property that receive calls keep. -/
theorem everyStepKeepsTheInvariant : Obligations.EveryStepKeepsTheInvariant :=
  ⟨fun _ _ => step_inv, fun _ _ _ other run started =>
    exec_stable started_stable (fun _ _ _ _ _ _ h => h) (fun _ _ _ => trivial) other run started⟩

/-- Settles O6. -/
theorem invariantHoldsAtReset : Obligations.InvariantHoldsAtReset := by
  obtain ⟨tx, ses⟩ := execReset_transmitOk (s := State.reset) rfl
  exact ⟨rxReset_ok, by simp [State.reset], tx, ses, by simp [State.ScriptOk, State.reset]⟩

/-! ## The order of `tx_sym`, and the order of the calls -/

theorem beginCall_advances (c : TxCall) {s : State} (sym : s.tx.sym = 63#6) :
    Advances s.tx.sym (beginCall c s).tx.sym := by
  obtain ⟨tx, -⟩ | ⟨f, -, tx, -⟩ | ⟨f, fs, budget, ce, k, -, -, tx, -⟩ := beginCall_tx_ses c s <;> rw [tx]
  · exact .inl rfl
  · exact .inr (.inl ⟨sym, rfl⟩)
  · exact .inl rfl

theorem sessionTurn_advances {s : State} (sym : s.tx.sym = 63#6) (running : s.ses.phase ≠ .idle) :
    Advances s.tx.sym (sessionTurn s).tx.sym := by
  obtain ⟨r, tx, -⟩ | ⟨tx, -⟩ | ⟨i, -, -, tx, -⟩ | ⟨tx, -⟩ := sessionTurn_cases running <;> rw [tx]
  · exact .inl rfl
  · exact .inl rfl
  · exact .inr (.inl ⟨sym, rfl⟩)
  · exact .inl rfl

theorem agentTurn_advances (m : Time) {s : State} (ok : s.tx.Ok) : Advances s.tx.sym (agentTurn m s).tx.sym := by
  obtain ⟨-, h⟩ | ⟨free, running, h⟩ | ⟨-, -, -, h⟩ | ⟨c, cs, free, -, -, h⟩ := agentTurn_cases m s <;> rw [h]
  · exact txTurn_advances (s := s.clockTo m) ok
  · exact sessionTurn_advances ((busy_eq_false _).mp free) running
  · exact .inl rfl
  · exact beginCall_advances c (s := { s with txCalls := cs }) ((busy_eq_false _).mp free)

theorem callTransmit_advances {c : TxCall} {s t : State} (run : callTransmit c s = .next t) :
    Advances s.tx.sym t.tx.sym := by
  obtain ⟨-, h⟩ | ⟨-, -, h⟩ | ⟨free, -, h⟩ := callTransmit_cases c s <;> cases h.symm.trans run
  · exact .inl rfl
  · exact .inl rfl
  · exact beginCall_advances c ((busy_eq_false _).mp free)

theorem Advances.or {a b : BitVec 6} (advances : Advances a b) (P : Prop) :
    b = a ∨ (a = 63#6 ∧ b = 0#6) ∨ (a.toNat < 42 ∧ b = a + 1#6) ∨ (a = 42#6 ∧ b = 63#6) ∨ P := by
  obtain same | begins | next | ends := advances
  · exact .inl same
  · exact .inr (.inl begins)
  · exact .inr (.inr (.inl next))
  · exact .inr (.inr (.inr (.inl ends)))

/-- Settles O22: a step that is not RESET advances `tx_sym` as one transition or one call does. -/
theorem sequencerNeverSkips : Obligations.SequencerNeverSkips := by
  intro s t ok run
  obtain ⟨m, rfl⟩ | ⟨r, rest, c, -, -, call⟩ | ⟨r, rest, script, decoded, reset⟩ | ⟨⟨key, tx⟩, -, -⟩ :=
    step_transmit_cases run
  · exact (agentTurn_advances m ok).or _
  · exact (callTransmit_advances (s := { s with script := rest }) call).or _
  · cases reset
    exact .inr (.inr (.inr (.inr ⟨r, rest, script, decoded, rfl⟩)))
  · exact .inl (by rw [tx])

/-- A transition of the agent takes the first of the waiting calls, when nothing is in progress, or none. -/
theorem agentTurn_txCalls (m : Time) (s : State) : (agentTurn m s).txCalls = s.txCalls ∨
    ∃ c, s.txCalls = c :: (agentTurn m s).txCalls ∧ s.tx.sym = 63#6 ∧ s.ses.phase = .idle := by
  obtain ⟨-, h⟩ | ⟨-, -, h⟩ | ⟨-, -, -, h⟩ | ⟨c, cs, free, idle, calls, h⟩ := agentTurn_cases m s <;> rw [h]
  · exact .inl (txTurn_frame (s.clockTo m)).2.2
  · exact .inl (sessionTurn_txCalls s)
  · exact .inl rfl
  · exact .inr ⟨c, by rw [calls, (beginCall_kept c _).txCalls], (busy_eq_false _).mp free, idle⟩

theorem callTransmit_txCalls {c : TxCall} {s t : State} (run : callTransmit c s = .next t) :
    t.txCalls = s.txCalls ∨ t.txCalls = s.txCalls ++ [c] := by
  obtain ⟨-, h⟩ | ⟨-, -, h⟩ | ⟨-, -, h⟩ := callTransmit_cases c s <;> cases h.symm.trans run
  · exact .inl rfl
  · exact .inr rfl
  · exact .inl (beginCall_kept c s).txCalls

/-- Settles O56: a call joins at the end, a transition takes the first, RESET drops all. -/
theorem noCallOvertakesAnother : Obligations.NoCallOvertakesAnother := by
  intro s t run
  obtain ⟨m, rfl⟩ | ⟨r, rest, c, script, decoded, call⟩ | ⟨r, rest, script, decoded, reset⟩ | kept :=
    step_transmit_cases run
  · obtain same | first := agentTurn_txCalls m s
    · exact .inl same
    · exact .inr (.inr (.inl first))
  · obtain same | joined := callTransmit_txCalls call
    · exact .inl same
    · exact .inr (.inl ⟨r, rest, c, script, decoded, joined⟩)
  · cases reset
    exact .inr (.inr (.inr ⟨r, rest, script, decoded, rfl⟩))
  · exact .inl kept.txCalls

end Sys2Proof.Claims
end

section
/-!
PROOF. Independence (20_memory.md section 6): the transmit side reads no receive group, the receive side nothing of
the transmit side, and no operation but RESET another group; and who writes the configuration registers.
-/

namespace Sys2Proof.Claims

open Sys2Proof Sys2Proof.Machine

/-- The state with other receive instances, and other calls waiting. -/
def beside (s : State) (rx : RxGroup) (others : List RxGroup) (calls : List TxCall) : State :=
  { s with rx := rx, rxOthers := others, txCalls := calls }

section
variable (s : State) (rx : RxGroup) (others : List RxGroup) (calls : List TxCall)

/-- Beside its own instances only the waiting calls are others. -/
theorem beside_own {s : State} {rx : RxGroup} {others : List RxGroup} (own : s.rx = rx) (own' : s.rxOthers = others)
    (calls : List TxCall) : beside s rx others calls = { s with txCalls := calls } := by
  rw [← own, ← own']
  rfl

/-- A choice that does not depend on the instances is the same beside others. -/
theorem beside_ite (p : Prop) [Decidable p] (t : State) :
    beside (if p then s else t) rx others calls = if p then beside s rx others calls else beside t rx others calls :=
  apply_ite (fun s => beside s rx others calls) p s t

theorem txTurn_beside : txTurn (beside s rx others calls) = beside (txTurn s) rx others calls := by
  simp only [txTurn, beside_ite]
  rfl

theorem sessionTurn_beside : sessionTurn (beside s rx others calls) = beside (sessionTurn s) rx others calls := by
  have same : (beside s rx others calls).ses.phase = s.ses.phase := rfl
  cases phase : s.ses.phase with
  | idle =>
    simp only [sessionTurn, same, phase]
    rfl
  | check =>
    simp only [sessionTurn, same, phase, sessionCheck]
    cases enabled : s.ses.cancelEn <;> simp only [beside_ite] <;> simp [beside, enabled] <;> rfl
  | round i =>
    simp only [sessionTurn, same, phase, sessionRound, beside_ite]
    rfl

theorem startSession_beside (cmd : BitVec 3) (sel : BitVec 2) (power : BitVec 8) (budget : BitVec 32) (ce k : Bool) :
    startSession cmd sel power budget ce k (beside s rx others calls) =
      beside (startSession cmd sel power budget ce k s) rx others calls := by
  simp only [startSession, beside]
  rcases encodeChannels s.tx.key cmd power (selected sel) with _ | _ | ⟨f, fs⟩ <;> rfl

theorem beginCall_beside (c : TxCall) :
    beginCall c (beside s rx others calls) = beside (beginCall c s) rx others calls := by
  cases c with
  | emit f =>
    simp only [beginCall, beginEmit]
    split_ifs <;> rfl
  | session cmd sel power budget ce c => exact startSession_beside { s with cancel := c } rx others calls ..
  | keepalive =>
    have due : keepaliveDue (beside s rx others calls) = keepaliveDue s := rfl
    simp only [beginCall, beginKeepalive, due]
    split_ifs
    · exact startSession_beside s rx others calls ..
    · rfl

/-- A call of the agent does the same beside other receive instances. -/
theorem callTransmit_beside {c : TxCall} {t : State} (run : callTransmit c s = .next t) :
    callTransmit c (beside s rx others s.txCalls) = .next (beside t rx others t.txCalls) := by
  obtain ⟨busy, h⟩ | ⟨free, unfinished, h⟩ | ⟨free, finished, h⟩ := callTransmit_cases c s <;> cases h.symm.trans run
  · exact if_pos busy
  · exact (if_neg (by simp [beside, free])).trans (if_pos unfinished)
  · refine ((if_neg (by simp [beside, free])).trans (if_neg ?_)).trans ?_
    · simpa [beside, State.callsUnfinished] using finished
    · rw [beginCall_beside, (beginCall_kept c s).txCalls]

/-- And so does a transition of it. -/
theorem agentTurn_beside (m : Time) :
    agentTurn m (beside s rx others s.txCalls) = beside (agentTurn m s) rx others (agentTurn m s).txCalls := by
  obtain ⟨busy, h⟩ | ⟨free, running, h⟩ | ⟨free, idle, none, h⟩ | ⟨c, cs, free, idle, calls, h⟩ := agentTurn_cases m s
  · rw [h, (txTurn_frame _).2.2, agentTurn, if_pos (show (beside s rx others s.txCalls).tx.busy = true from busy)]
    exact txTurn_beside (s.clockTo m) rx others s.txCalls
  all_goals rw [h]
  all_goals rw [agentTurn, if_neg (show ¬ (beside s rx others s.txCalls).tx.busy = true by simpa [beside] using free)]
  · rw [sessionTurn_txCalls, if_pos (show (beside s rx others s.txCalls).ses.running = true by simpa [beside, SesGroup.running] using running)]
    exact sessionTurn_beside s rx others s.txCalls
  all_goals rw [if_neg (show ¬ (beside s rx others s.txCalls).ses.running = true by simp [beside, SesGroup.running, idle])]
  · rw [nextCall_nil (s := beside s rx others s.txCalls) none]
    rfl
  · rw [nextCall_cons (s := beside s rx others s.txCalls) calls, (beginCall_kept c _).txCalls]
    exact beginCall_beside { s with txCalls := cs } rx others cs c

end

/-! ## The obligations on who reads and writes what -/

/-- An operation of the transmit side is ENCODE or a call of the agent. -/
theorem transmitSide_cases {i : Instr} (h : transmitSide i = true) :
    (∃ key chan cmd power, i = .encode key chan cmd power) ∨ ∃ c, i = callInstr c := by
  cases i with
  | encode key chan cmd power => exact .inl ⟨key, chan, cmd, power, rfl⟩
  | emit f => exact .inr ⟨.emit f, rfl⟩
  | sessionRun cmd sel power budget ce c => exact .inr ⟨.session cmd sel power budget ce c, rfl⟩
  | keepaliveTick => exact .inr ⟨.keepalive, rfl⟩
  | _ => cases h

theorem callTransmit_rx {c : TxCall} {s t : State} (run : callTransmit c s = .next t) :
    t.rx = s.rx ∧ t.rxOthers = s.rxOthers ∧ t.tx.key = s.tx.key ∧ t.ka = s.ka := by
  obtain ⟨-, h⟩ | ⟨-, -, h⟩ | ⟨-, -, h⟩ := callTransmit_cases c s <;> cases h.symm.trans run
  · exact ⟨rfl, rfl, rfl, rfl⟩
  · exact ⟨rfl, rfl, rfl, rfl⟩
  · obtain ⟨rx, others, key, ka, -⟩ := beginCall_kept c s
    exact ⟨rx, others, key, ka⟩

/-- Where time passes, a step is a transition of the agent, or moves the clock only. -/
theorem step_timePasses {s t : State} (passes : s.script = [] ∨ ∃ T rest, s.script = .clock T :: rest)
    (run : step s = .next t) :
    (∃ m, t = agentTurn m s ∧
      ∀ rx others, step (beside s rx others s.txCalls) = .next (agentTurn m (beside s rx others s.txCalls))) ∨
    (∃ T rest, t = ({ s with clock := T, script := rest }).answer [] [] ∧
      ∀ rx others, step (beside s rx others s.txCalls) = .next (beside t rx others t.txCalls)) := by
  have moment (rx : RxGroup) (others : List RxGroup) : agentMoment (beside s rx others s.txCalls) = agentMoment s := rfl
  obtain script | ⟨T, rest, script⟩ := passes
  · cases (step_empty script).symm.trans run
    have stepBeside (rx others) := step_empty (s := beside s rx others s.txCalls) script
    simp only [stepBeside, passFreely, moment]
    cases agentMoment s with
    | some m => exact .inl ⟨m, rfl, fun _ _ => rfl⟩
    | none => exact .inr ⟨s.clock, s.script, rfl, fun _ _ => rfl⟩
  · cases (step_clock script).symm.trans run
    have stepBeside (rx others) := step_clock (s := beside s rx others s.txCalls) script
    simp only [stepBeside, passUntil, moment]
    cases agentMoment s with
    | none => exact .inr ⟨T, rest, rfl, fun _ _ => rfl⟩
    | some m =>
      by_cases due : reached T m = true
      · simp only [due]
        exact .inl ⟨m, rfl, fun _ _ => rfl⟩
      · simp only [due]
        exact .inr ⟨T, rest, rfl, fun _ _ => rfl⟩

/-- Settles O49: ENCODE reads its operands only, and a call or a transition does the same beside other instances. -/
theorem transmitSideIsIndependentOfTheReceiveSide : Obligations.TransmitSideIsIndependentOfTheReceiveSide := by
  refine ⟨fun i s t side run => ?_, fun s t passes run => ?_⟩
  · obtain ⟨key, chan, cmd, power, rfl⟩ | ⟨c, rfl⟩ := transmitSide_cases side
    · cases run
      exact ⟨rfl, rfl, fun _ _ => rfl⟩
    · rw [exec_callInstr] at run
      obtain ⟨rx, others, -⟩ := callTransmit_rx run
      refine ⟨rx, others, fun rx' others' => ?_⟩
      rw [exec_callInstr]
      exact callTransmit_beside s rx' others' run
  · obtain ⟨m, rfl, stepBeside⟩ | ⟨T, rest, rfl, stepBeside⟩ := step_timePasses passes run
    · have kept := agentTurn_kept m s
      refine ⟨kept.rx, kept.rxOthers, fun rx others => (stepBeside rx others).trans ?_⟩
      rw [agentTurn_beside]
      rfl
    · exact ⟨rfl, rfl, stepBeside⟩

/-- Settles O48: by the kinds of the receive side, none of which reads or writes more than the receive group, the
clock, the results and the script. -/
theorem receiveSideIsIndependentOfTheTransmitSide : Obligations.ReceiveSideIsIndependentOfTheTransmitSide := by
  intro i s t side run
  cases kind i with
  | arrives ys dur meaning =>
    cases (meaning s).symm.trans run
    exact ⟨rfl, rfl, rfl, rfl, rfl, rfl, rfl, fun _ _ _ _ _ _ => meaning _⟩
  | single single =>
    cases (exec_singleCall single s).symm.trans run
    exact ⟨rfl, rfl, rfl, rfl, rfl, rfl, rfl, fun _ _ _ _ _ _ => exec_singleCall single _⟩
  | answers ds rs meaning =>
    cases (meaning s).symm.trans run
    exact ⟨rfl, rfl, rfl, rfl, rfl, rfl, rfl, fun _ _ _ _ _ _ => meaning _⟩
  | transmit c => cases c <;> cases side
  | reset => cases side
  | cfgWrite no value => cases side

/-- Settles O50: by the kinds but RESET; a call of the agent does the same beside other instances. -/
theorem receiveInstancesAreIsolated : Obligations.ReceiveInstancesAreIsolated := by
  intro i s t other run
  refine ⟨exec_rxOthers other run, fun others => ?_⟩
  cases kind i with
  | arrives ys dur meaning =>
    cases (meaning s).symm.trans run
    exact meaning _
  | single single =>
    cases (exec_singleCall single s).symm.trans run
    exact exec_singleCall single _
  | answers ds rs meaning =>
    cases (meaning s).symm.trans run
    exact meaning _
  | transmit c =>
    rw [exec_callInstr] at run ⊢
    have same : t.rx = s.rx := (callTransmit_rx run).1
    refine (callTransmit_beside s s.rx others run).trans ?_
    rw [← same]
    rfl
  | reset => exact absurd rfl other
  | cfgWrite no value =>
    cases run
    rw [exec_cfgWrite, writeConfig, writeConfig]
    split_ifs <;> rfl

/-- Neither `tx_key` nor `ka_mask` is written by an instruction other than CFG_WRITE and RESET. -/
theorem exec_key_ka {i : Instr} {s t : State} (notConfig : ∀ no v, i ≠ .cfgWrite no v) (notReset : i ≠ .reset)
    (run : exec i s = .next t) : t.tx.key = s.tx.key ∧ t.ka = s.ka := by
  cases kind i with
  | arrives ys dur meaning =>
    cases (meaning s).symm.trans run
    exact ⟨rfl, rfl⟩
  | single single =>
    cases (exec_singleCall single s).symm.trans run
    exact ⟨rfl, rfl⟩
  | answers ds rs meaning =>
    cases (meaning s).symm.trans run
    exact ⟨rfl, rfl⟩
  | transmit c =>
    obtain ⟨-, -, key, ka⟩ := callTransmit_rx ((exec_callInstr c s).symm.trans run)
    exact ⟨key, ka⟩
  | reset => exact absurd rfl notReset
  | cfgWrite no value => exact absurd rfl (notConfig no value)

/-- Settles O47: the receive registers are stable under the receive calls, and a transition writes none of the four. -/
theorem configurationIsWrittenByCfgWriteAndResetOnly : Obligations.ConfigurationIsWrittenByCfgWriteAndResetOnly := by
  refine ⟨fun i s t notConfig notReset run => ?_, fun s t passes run => ?_⟩
  · obtain ⟨key, ka⟩ := exec_key_ka notConfig notReset run
    obtain ⟨filter, hi⟩ := exec_stable (config_stable s.rx.keyFilter s.rx.wStartHi)
      (fun no v config => absurd config (notConfig no v)) (fun _ _ _ => trivial) notReset run ⟨rfl, rfl⟩
    exact ⟨key, filter, congrArg KaGroup.mask ka, hi⟩
  · obtain ⟨m, rfl, -⟩ | ⟨T, rest, rfl, -⟩ := step_timePasses passes run
    · have kept := agentTurn_kept m s
      exact ⟨kept.key, by rw [kept.rx], kept.mask, by rw [kept.rx]⟩
    · exact ⟨rfl, rfl, rfl, rfl⟩

end Sys2Proof.Claims
end

section
/-!
PROOF. When the agent's next transition is due (log entry 2), the environment's turns, and calls at a busy agent or at
one whose earlier calls have not returned (R158, R246, R68 (1)).
-/

namespace Sys2Proof.Claims

open Sys2Proof Sys2Proof.Machine

/-! ## Time passes -/

theorem reached_iff_isDue {t m : Time} : reached t m = true ↔ isDue t m := reached_iff t m

theorem later_of_due {t m : Time} (due : isDue t m) : later t m = t := if_pos (reached_iff_isDue.mpr due)

theorem later_of_notDue {t m : Time} (notDue : ¬ isDue t m) : later t m = m :=
  if_neg (mt reached_iff_isDue.mp notDue)

/-- The agent's moment as the claims say it. -/
theorem nextTransitionAt_eq (s : State) : nextTransitionAt s = agentMoment s := by
  unfold nextTransitionAt agentMoment
  by_cases sym : s.tx.sym = 63#6
  · rw [if_neg (not_not.mpr sym), if_neg (c := s.tx.busy = true) (by simp [(busy_eq_false s.tx).mpr sym])]
    by_cases finished : s.ses.phase = .idle ∧ s.txCalls = []
    · rw [if_pos finished, if_neg (by simp [(callsUnfinished_eq_false s).mpr finished])]
    · have unfinished : s.callsUnfinished = true := by
        simpa using mt (callsUnfinished_eq_false s).mp finished
      rw [if_neg finished, if_pos unfinished]
  · rw [if_pos sym, if_pos ((busy_iff s.tx).mpr sym)]
    unfold txMoment riseTime later reached
    cases s.draws <;> simp [nextDraw, Nat.lt_succ_iff]

/-- Where time may pass to the agent's next transition, a step makes it (log entry 2). -/
theorem step_of_mayPass {s : State} {m : Time} (passes : mayPass s m) (moment : agentMoment s = some m) :
    step s = .next (agentTurn m s) := by
  obtain script | ⟨T, rest, script, due⟩ := passes
  · rw [step_empty script, passFreely, moment]
  · rw [step_clock script, passUntil, moment]
    simp only [reached_iff_isDue.mpr due, if_true]

/-- Settles O51: a transition reads the script no more than an empty one, and shows its own time. -/
theorem dueTransitionsComeBeforeTheClock : Obligations.DueTransitionsComeBeforeTheClock := by
  intro s m next
  have moment (script : List Turn) : agentMoment { s with script := script } = some m :=
    (nextTransitionAt_eq s).symm.trans next
  refine ⟨agentTurn m { s with script := [] }, step_of_mayPass (.inl rfl) (moment []), (agentTurn_kept ..).script,
    fun due => ?_, fun notDue => ?_, fun t rest due => ?_⟩
  · rw [agentTurn_clock (moment [])]
    exact later_of_due due
  · rw [agentTurn_clock (moment [])]
    exact later_of_notDue notDue
  · rw [step_of_mayPass (.inr ⟨t, rest, rfl, due⟩) (moment _), ← agentTurn_script]

/-- A clock turn with nothing due by its time sets the clock. -/
theorem passUntil_of_notDue {s : State} {t : Time} (notDue : ∀ m, agentMoment s = some m → ¬ isDue t m)
    (rest : List Turn) : passUntil t rest s = ({ s with clock := t, script := rest }).answer [] [] := by
  obtain ⟨m, moment, due, -⟩ | h := passUntil_cases t rest s
  · exact absurd (reached_iff_isDue.mp due) (notDue m moment)
  · exact h

theorem passFreely_of_idle {s : State} (idle : agentIdle s) : passFreely s = s.answer [] [] := by
  obtain ⟨m, moment, -⟩ | ⟨-, h⟩ := passFreely_cases s
  · rw [← nextTransitionAt_eq, nextTransitionAt, if_neg (not_not.mpr idle.1), if_pos idle.2] at moment
    cases moment
  · exact h

/-- Settles O4: only the clock's turn and the empty script need the agent's moment. -/
theorem environmentTurnsMoveOnlyTheirInput : Obligations.EnvironmentTurnsMoveOnlyTheirInput := by
  intro s rest
  refine ⟨fun t notDue => ?_, fun t => rfl, fun b => rfl, rfl, fun none => ?_, fun r rs others => ?_, fun idle => ?_⟩
  · rw [nextTransitionAt_eq] at notDue
    rw [step_clock rfl, passUntil_of_notDue (s := { s with script := .clock t :: rest }) notDue]
    rfl
  · simp only [step, nextInstance, none]
    rfl
  · simp only [step, nextInstance, others]
    rfl
  · rw [step_empty rfl, passFreely_of_idle (s := { s with script := [] }) idle]
    rfl

/-! ## Calls of the agent -/

theorem callTransmit_of_busy {s : State} (busy : s.tx.sym ≠ 63#6) (c : TxCall) :
    callTransmit c s = .next { s with delivered := [], reasons := [] } :=
  if_pos ((busy_iff s.tx).mpr busy)

/-- Settles O17. -/
theorem emitWhileBusyIsIgnored : Obligations.EmitWhileBusyIsIgnored :=
  fun f _ busy => callTransmit_of_busy busy (.emit f)

/-- Settles O52: the three requests are calls of the agent. -/
theorem requestsToABusyTransmitAgentAreIgnored : Obligations.RequestsToABusyTransmitAgentAreIgnored :=
  fun _ busy => ⟨fun f => callTransmit_of_busy busy (.emit f),
    fun cmd sel power budget ce c => callTransmit_of_busy busy (.session cmd sel power budget ce c),
    callTransmit_of_busy busy .keepalive⟩

theorem callTransmit_of_unfinished {s : State} (sym : s.tx.sym = 63#6) (unfinished : s.callsUnfinished = true)
    (c : TxCall) :
    callTransmit c s = .next { s with txCalls := s.txCalls ++ [c], delivered := [], reasons := [] } :=
  (if_neg (by simp [(busy_eq_false s.tx).mpr sym])).trans (if_pos unfinished)

/-- Between two operations a step begins the call that has waited longest. -/
theorem step_begins {s : State} (passes : mayPass s s.clock) (sym : s.tx.sym = 63#6) (idle : s.ses.phase = .idle)
    {c : TxCall} {cs : List TxCall} (calls : s.txCalls = c :: cs) :
    step s = .next (beginCall c { s with txCalls := cs }) := by
  have free := (busy_eq_false s.tx).mpr sym
  have unfinished : s.callsUnfinished = true := (callsUnfinished_iff s).mpr (.inr (by simp [calls]))
  rw [step_of_mayPass passes (by simp [agentMoment, free, unfinished])]
  simp [agentTurn, free, SesGroup.running, idle, nextCall_cons calls]

/-- Settles O54: a call that waits is beside those behind it what it is alone. -/
theorem callsWaitForThoseBeforeThem : Obligations.CallsWaitForThoseBeforeThem := by
  refine ⟨fun c s sym unfinished => ?_, fun c cs s passes sym idle calls => ?_⟩
  · rw [exec_callInstr]
    exact callTransmit_of_unfinished sym ((callsUnfinished_iff s).mpr unfinished) c
  · refine ⟨beginCall c { s with txCalls := [] }, ?_, ?_⟩
    · rw [exec_callInstr]
      exact callTransmit_of_idle (s := { s with txCalls := [] }) ⟨sym, idle, rfl⟩ c
    · have kept := beginCall_kept c { s with txCalls := [] }
      have alone := beginCall_beside { s with txCalls := [] } s.rx s.rxOthers cs c
      rw [step_begins passes sym idle calls]
      exact congrArg _ (alone.trans (beside_own kept.rx kept.rxOthers cs))

end Sys2Proof.Claims
end

section
/-!
PROOF. CFG_WRITE (R45), the rest of RESET (R260, log entry 16), and the derived views (R27, R38, R39).
-/

namespace Sys2Proof.Claims

open Sys2Proof Sys2Proof.Machine

theorem writeConfig_other {no : Nat} (other : 4 ≤ no) (value : BitVec 16) (s : State) : writeConfig no value s = s := by
  rw [writeConfig, if_neg (by omega), if_neg (by omega), if_neg (by omega), if_neg (by omega)]

/-- Settles O43. -/
theorem cfgWriteWritesOneRegister : Obligations.CfgWriteWritesOneRegister := by
  refine fun v s => ⟨rfl, rfl, rfl, rfl, fun no other => ?_⟩
  rw [exec_cfgWrite, writeConfig_other other]
  rfl

theorem txOut_mem_resetEdges (s : State) : s.tx.out = true ↔ Wave.edge .txOut false s.clock ∈ resetEdges s := by
  unfold resetEdges
  cases s.tx.out <;> cases s.tx.active <;> simp

theorem txActive_mem_resetEdges (s : State) :
    s.tx.active = true ↔ Wave.edge .txActive false s.clock ∈ resetEdges s := by
  unfold resetEdges
  cases s.tx.out <;> cases s.tx.active <;> simp

theorem resetEdges_subset {s : State} {w : Wave} (mem : w ∈ resetEdges s) :
    w = .edge .txOut false s.clock ∨ w = .edge .txActive false s.clock := by
  unfold resetEdges at mem
  split_ifs at mem <;> simp_all

/-- Settles O45: RESET shows the falls of the lines that were on. -/
theorem resetResetsAllInstancesAndLeavesTheEnvironment :
    Obligations.ResetResetsAllInstancesAndLeavesTheEnvironment := fun s =>
  ⟨_, rfl, rfl, rfl, rfl, rfl, rfl,
    ⟨resetEdges s, rfl, txOut_mem_resetEdges s, txActive_mem_resetEdges s, fun _ => resetEdges_subset⟩,
    rfl, rfl, rfl, rfl, rfl⟩

/-- What `rx_state` shows, by the counter (R39). -/
theorem rxState_cases (rx : RxGroup) :
    (rx.count.toNat ≤ 39 ∧ rx.state = .accumulating) ∨ (rx.count = 40#6 ∧ rx.state = .complete) ∨
    (rx.count = 63#6 ∧ rx.state = .idle) ∨
    (¬ rx.count.toNat ≤ 39 ∧ rx.count ≠ 40#6 ∧ rx.count ≠ 63#6 ∧ rx.state = .undefined) := by
  unfold RxGroup.state
  split_ifs with few full idle
  · exact .inl ⟨Nat.lt_succ_iff.mp few, rfl⟩
  · exact .inr (.inl ⟨full, rfl⟩)
  · exact .inr (.inr (.inl ⟨idle, rfl⟩))
  · exact .inr (.inr (.inr ⟨mt Nat.lt_succ_iff.mpr few, full, idle, rfl⟩))

/-- Settles O46: the views by the cases of the counter and of the key filter. -/
theorem viewsAndCodesFollowTheStoredState : Obligations.ViewsAndCodesFollowTheStoredState := by
  intro s
  have paired : s.rx.paired = true ↔ s.rx.keyFilter ≠ 0#16 := by simp [RxGroup.paired, Config.keyAny]
  have few : s.rx.count.toNat ≤ 39 → s.rx.count ≠ 40#6 ∧ s.rx.count ≠ 63#6 := by bv_omega
  obtain ⟨count, h⟩ | ⟨count, h⟩ | ⟨count, h⟩ | ⟨many, notFull, started, h⟩ := rxState_cases s.rx
  · simp [busy_iff, paired, h, count, few count, State.commandOutputs, RxResult.code, SesResult.code]
  · simp [busy_iff, paired, h, count, State.commandOutputs, RxResult.code, SesResult.code]
  · simp [busy_iff, paired, h, count, State.commandOutputs, RxResult.code, SesResult.code]
  · simp [busy_iff, paired, h, many, notFull, started, State.commandOutputs, RxResult.code, SesResult.code]

end Sys2Proof.Claims
end

section
/-!
PROOF. The emission (R150 to R162): one pulse with any draws, the 42 pulses, and the nominal emission as a whole.
-/

namespace Sys2Proof.Claims

open Sys2Proof Sys2Proof.Machine

/-! ## Times -/

@[simp] theorem after_zero (t : Time) : after t 0 = t := BitVec.add_zero t

theorem after_after (t : Time) (a b : Nat) : after (after t a) b = after t (a + b) := by
  rw [after, after, after, BitVec.add_assoc, ← BitVec.ofNat_add]

/-- Of two times of one run the later is the one further on. -/
theorem later_after (t : Time) {a b : Nat} (le : a ≤ b) (hb : b ≤ 2 ^ 31) : later (after t a) (after t b) = after t b := by
  have ahead : after t b = after t a + BitVec.ofNat 32 (b - a) := by
    rw [show after t a + BitVec.ofNat 32 (b - a) = after (after t a) (b - a) from rfl, after_after, Nat.add_sub_cancel' le]
  rw [ahead]
  exact later_ahead _ _ (by rw [BitVec.toNat_ofNat]; omega)

theorem isDue_after (t : Time) {a b : Nat} (le : a ≤ b) (hb : b < 2 ^ 31) : isDue (after t b) (after t a) := by
  rw [isDue, after_sub_after t le (by omega)]
  omega

/-- The symbols' durations as the claims say them (R90). -/
theorem symbolAt_on (f : Frame) (k : Nat) : (symbolAt f k).on = BitVec.ofNat 32 (pulseWidth f k) := by
  unfold symbolAt pulseWidth Symbol.ofBit bitAt
  by_cases h0 : k = 0
  · simp [h0, Symbol.on, Config.tStartOn]
  · by_cases hk : k ≤ 40
    · cases f.getLsbD (40 - k) <;> simp [h0, hk, Symbol.on, Config.tOneOn, Config.tZeroOn]
    · simp [h0, hk, Symbol.on, Config.tZeroOn]

/-- A symbol's total (R90). -/
def pulseTotal (k : Nat) : Nat := if k = 0 then 2250 else 1000

theorem symbolAt_on_off (f : Frame) (k : Nat) :
    (symbolAt f k).on + (symbolAt f k).off = BitVec.ofNat 32 (pulseTotal k) := by
  rw [symbolAt_total, pulseTotal]
  split <;> rfl

theorem pulseStart_succ (k : Nat) : pulseStart (k + 1) = pulseStart k + pulseTotal k := by
  cases k with
  | zero => rfl
  | succ k => simp [pulseStart, pulseTotal]; omega

theorem pulseWidth_cases (f : Frame) (k : Nat) :
    (k = 0 ∧ pulseWidth f k = 1500) ∨ (k ≠ 0 ∧ (pulseWidth f k = 750 ∨ pulseWidth f k = 250)) := by
  unfold pulseWidth
  split_ifs with h0 one
  · exact .inl ⟨h0, rfl⟩
  · exact .inr ⟨h0, .inl rfl⟩
  · exact .inr ⟨h0, .inr rfl⟩

theorem pulseWidth_lt_total (f : Frame) (k : Nat) : pulseWidth f k < pulseTotal k := by
  unfold pulseTotal
  obtain ⟨h, w⟩ | ⟨h, w | w⟩ := pulseWidth_cases f k <;> rw [w] <;> simp [h]

/-! ## One pulse -/

theorem mayPass_of_same {s t : State} (script : t.script = s.script) {m : Time} (passes : mayPass s m) : mayPass t m := by
  rwa [mayPass, script]

/-- A step of a busy agent is the transmitter's transition at its time. -/
theorem step_of_busy {s : State} (busy : s.tx.sym ≠ 63#6) (passes : mayPass s (txMoment s.tx s.draws)) :
    step s = .next (txTurn (s.clockTo (txMoment s.tx s.draws))) := by
  have busy' := (busy_iff s.tx).mpr busy
  rw [step_of_mayPass passes (if_pos busy'), agentTurn, if_pos busy']

section
variable {s : State}

theorem txTurn_of_high (high : s.tx.out = true) : txTurn s = (txFall s).answer [] [] := if_pos high

variable (low : s.tx.out = false)
include low

theorem txTurn_of_symbol (few : s.tx.sym.toNat ≤ 41) : txTurn s = (txRise s).answer [] [] :=
  (if_neg (by simp [low])).trans (if_pos (Nat.lt_succ_of_le few))

theorem txTurn_of_trailer (sym : s.tx.sym = 42#6) (gap : s.tx.gap = false) :
    txTurn s = (txGapStart s).answer [] [] := by
  simp [txTurn, low, sym, gap]

theorem txTurn_of_gap (sym : s.tx.sym = 42#6) (gap : s.tx.gap = true) :
    txTurn s = (txReturn s).answer (if s.tx.byHost then [.emitReturned] else []) [] := by
  simp [txTurn, low, sym, gap]

end

/-- The state after one pulse: rise and fall shown, deadline and counter advanced, one pair of draws used. -/
def pulsed (s : State) : State :=
  { s with
    tx := { s.tx with
      out := false
      sym := s.tx.sym + 1#6
      deadline := after s.tx.deadline (pulseTotal s.tx.sym.toNat)
      fallAt := fallTime s.tx s.draws }
    draws := s.draws.tail
    waves := s.waves ++ [.edge .txOut true (riseTime s.tx s.draws), .edge .txOut false (fallTime s.tx s.draws)]
    clock := later (later s.clock (riseTime s.tx s.draws)) (fallTime s.tx s.draws)
    delivered := [], reasons := [] }

/-- The line on and the clock at the rise: the state within a pulse. -/
def risen (s : State) : State := (txRise (s.clockTo (riseTime s.tx s.draws))).answer [] []

/-- Two steps make a pulse, its rise and its fall (log entry 3). -/
theorem run_pulse {s : State} (few : s.tx.sym.toNat ≤ 41) (low : s.tx.out = false)
    (rises : mayPass s (riseTime s.tx s.draws)) (falls : mayPass s (fallTime s.tx s.draws)) :
    Sys2Proof.core.run 2 s = .next (pulsed s) := by
  have moment : txMoment s.tx s.draws = riseTime s.tx s.draws := by
    rw [txMoment, low, if_neg Bool.false_ne_true, if_pos (Nat.lt_succ_of_le few)]
  have rise : step s = .next (risen s) := by
    rw [step_of_busy (count_ne_idle (by omega)) (moment ▸ rises), moment, txTurn_of_symbol (s := s.clockTo _) low few]
    rfl
  have fall : step (risen s) = .next (pulsed s) := by
    have busy : (risen s).tx.sym ≠ 63#6 := count_ne_idle (c := s.tx.sym) (by omega)
    rw [step_of_busy busy (mayPass_of_same rfl falls), txTurn_of_high (s := (risen s).clockTo _) rfl]
    have total : s.tx.symbol.on + s.tx.symbol.off = BitVec.ofNat 32 (pulseTotal s.tx.sym.toNat) := symbolAt_on_off ..
    simp only [txFall, risen, txRise, pulsed, after, ← total]
    simp [State.answer, State.clockTo, txMoment, TxGroup.symbol]
  exact (run_succ 1 rise).trans (run_succ 0 fall)

/-- With no draws, and the last fall not after the deadline, the pulse is that of R154. -/
theorem nominal_times {s : State} (draws : s.draws = []) (inTime : isDue s.tx.deadline s.tx.fallAt) :
    riseTime s.tx s.draws = s.tx.deadline ∧
      fallTime s.tx s.draws = after s.tx.deadline (pulseWidth s.tx.frame s.tx.sym.toNat) := by
  rw [draws, riseTime_nominal, fallTime_nominal, later_of_due inTime]
  exact ⟨rfl, congrArg _ (symbolAt_on ..)⟩

/-! ## After the trailer -/

/-- The end of the trailer, when time may pass to it (R157, R155). -/
theorem step_gapStart {s : State} (low : s.tx.out = false) (sym : s.tx.sym = 42#6) (gap : s.tx.gap = false)
    (passes : mayPass s s.tx.deadline) : step s = .next { s with
      tx := { s.tx with active := false, gap := true, deadline := after s.tx.deadline 9000 }
      waves := s.waves ++ [.edge .txActive false s.tx.deadline]
      clock := later s.clock s.tx.deadline, delivered := [], reasons := [] } := by
  have moment : txMoment s.tx s.draws = s.tx.deadline := by simp [txMoment, low, sym]
  rw [step_of_busy (by simp [sym]) (moment ▸ passes), moment]
  rw [txTurn_of_trailer (s := s.clockTo _) low sym gap]
  simp [txGapStart, State.answer, State.clockTo, after, Config.tGap]

/-- The end of the silence (R155, R159). -/
theorem step_return {s : State} (low : s.tx.out = false) (sym : s.tx.sym = 42#6) (gap : s.tx.gap = true)
    (passes : mayPass s s.tx.deadline) : step s = .next { s with
      tx := { s.tx with sym := 63#6, gap := false }
      waves := s.waves ++ [.returned s.tx.deadline]
      clock := later s.clock s.tx.deadline
      delivered := if s.tx.byHost = true then [.emitReturned] else [], reasons := [] } := by
  have moment : txMoment s.tx s.draws = s.tx.deadline := by simp [txMoment, low, sym]
  rw [step_of_busy (by simp [sym]) (moment ▸ passes), moment]
  rw [txTurn_of_gap (s := s.clockTo _) low sym gap]
  rfl

/-- Settles O18: the pulse with no draws, and the two transitions after the trailer. -/
theorem emissionTransitions : Obligations.EmissionTransitions := by
  intro s draws ok low passes
  refine ⟨?_, fun sym gap => step_gapStart low sym gap passes, fun sym gap => step_return low sym gap passes⟩
  intro few inTime on total falls
  obtain ⟨rise, fall⟩ := nominal_times draws inTime
  refine ⟨pulsed s, run_pulse few low (rise.symm ▸ passes) (fall.symm ▸ falls), ?_⟩
  rw [pulsed, rise, fall, draws, ← low]
  rfl

/-! ## Draws -/

/-- The on-duration less the correction of R156. -/
theorem pulseWidth_sub_overhead (f : Frame) (k : Nat) :
    BitVec.ofNat 32 (pulseWidth f k) - Config.txOverhead = BitVec.ofNat 32 (pulseWidth f k - 2) := by
  obtain ⟨-, w⟩ | ⟨-, w | w⟩ := pulseWidth_cases f k <;> rw [w] <;> rfl

/-- Rise and fall of the next pulse where a pair of draws stands (R156). -/
theorem drawn_times {s : State} {j o : Time} {rest : List (Time × Time)} (draws : s.draws = (j, o) :: rest) :
    riseTime s.tx s.draws = later s.tx.deadline s.tx.fallAt + j ∧
      fallTime s.tx s.draws =
        riseTime s.tx s.draws + BitVec.ofNat 32 (pulseWidth s.tx.frame s.tx.sym.toNat - 2) + o := by
  have on : s.tx.symbol.on = BitVec.ofNat 32 (pulseWidth s.tx.frame s.tx.sym.toNat) := symbolAt_on ..
  rw [fallTime, on, pulseWidth_sub_overhead, riseTime, draws]
  exact ⟨rfl, rfl⟩

/-- What is left until the next deadline after a pulse that rose `j` late and was on for `on - 2 + o`. -/
theorem deadline_sub_fall (d j o : Time) {on off : Nat} (hon : 2 ≤ on) (hon' : on ≤ 1500) (hoff : off ≤ 750)
    (small : j.toNat + o.toNat < off + 2) :
    (after d (on + off) - (d + j + BitVec.ofNat 32 (on - 2) + o)).toNat < 2 ^ 31 := by
  have left : after d (on + off) = d + j + BitVec.ofNat 32 (on - 2) + o + BitVec.ofNat 32 (off + 2 - j.toNat - o.toNat) := by
    have parts : on + off = j.toNat + (on - 2) + o.toNat + (off + 2 - j.toNat - o.toNat) := by omega
    rw [parts]
    simp only [after, BitVec.ofNat_add, BitVec.ofNat_toNat, BitVec.setWidth_eq, BitVec.add_assoc]
  rw [left, add_sub_cancel_left, BitVec.toNat_ofNat]
  omega

/-- Settles O21: the pulse's own draws are in its two edges and not in the deadline. -/
theorem overrunsAreNotCompounded : Obligations.OverrunsAreNotCompounded := by
  intro s j o rest draws few low on off inTime rise rises falls
  obtain ⟨riseAt, fallAt⟩ := drawn_times draws
  have rise_eq : riseTime s.tx s.draws = rise := by
    rw [riseAt, later, reached]
    simp only [decide_eq_true_eq]
    rfl
  rw [rise_eq] at fallAt
  have total : pulseTotal s.tx.sym.toNat = on + off ∧ 2 ≤ on ∧ on ≤ 1500 ∧ off ≤ 750 := by
    simp only [on, off, pulseTotal]
    obtain ⟨h, w⟩ | ⟨h, w | w⟩ := pulseWidth_cases s.tx.frame s.tx.sym.toNat <;> rw [w] <;> simp [h]
  obtain ⟨total, hon, hon', hoff⟩ := total
  refine ⟨pulsed s, run_pulse few low (rise_eq ▸ rises) (fallAt ▸ falls), ?_, ?_, ?_, fun early small => ?_⟩
  · rw [pulsed, rise_eq, fallAt]
  · rw [pulsed, draws, List.tail_cons]
  · rw [pulsed, total]
  · have rise_early : rise = s.tx.deadline + j := by
      simp only [rise]
      rw [if_pos early]
    rw [pulsed, total, fallAt, rise_early]
    exact deadline_sub_fall _ j o hon hon' hoff small

/-! ## The pulses of an emission, with any draws -/

/-- The state after `k` pulses. -/
def pulsedTimes : Nat → State → State
  | 0, s => s
  | k + 1, s => pulsed (pulsedTimes k s)

/-- Counter, line, frame and deadline after `k` pulses of an emission that began at `t0` (R153). -/
structure AtSymbol (f : Frame) (t0 : Time) (k : Nat) (s : State) : Prop where
  sym : s.tx.sym = BitVec.ofNat 6 k
  low : s.tx.out = false
  frame : s.tx.frame = f
  deadline : s.tx.deadline = after t0 (pulseStart k)

theorem ofNat_toNat_sym {k : Nat} (hk : k ≤ 42) : (BitVec.ofNat 6 k).toNat = k := by
  rw [BitVec.toNat_ofNat]
  omega

theorem AtSymbol.pulsed {f : Frame} {t0 : Time} {k : Nat} {s : State} (hk : k ≤ 42) (at_k : AtSymbol f t0 k s) :
    AtSymbol f t0 (k + 1) (pulsed s) := by
  obtain ⟨sym, -, frame, deadline⟩ := at_k
  refine ⟨?_, rfl, frame, ?_⟩
  · show s.tx.sym + 1#6 = _
    rw [sym, BitVec.ofNat_add]
  · show after s.tx.deadline (pulseTotal s.tx.sym.toNat) = _
    rw [deadline, sym, ofNat_toNat_sym hk, after_after, ← pulseStart_succ]

theorem AtSymbol.pulsedTimes {f : Frame} {t0 : Time} {s : State} (begun : AtSymbol f t0 0 s) :
    ∀ {k : Nat}, k ≤ 42 → AtSymbol f t0 k (pulsedTimes k s)
  | 0, _ => begun
  | _ + 1, hk => (begun.pulsedTimes (Nat.le_of_succ_le hk)).pulsed (Nat.le_of_succ_le hk)

theorem pulsedTimes_script (k : Nat) (s : State) : (pulsedTimes k s).script = s.script := by
  induction k with
  | zero => rfl
  | succ k ih => exact ih

/-- Two steps a pulse, where time passes to every rise and fall. -/
theorem run_pulses {f : Frame} {t0 : Time} {s : State} (begun : AtSymbol f t0 0 s) {n : Nat} (hn : n ≤ 42)
    (passes : ∀ k < n, mayPass s (riseTime (pulsedTimes k s).tx (pulsedTimes k s).draws) ∧
      mayPass s (fallTime (pulsedTimes k s).tx (pulsedTimes k s).draws)) :
    Sys2Proof.core.run (2 * n) s = .next (pulsedTimes n s) := by
  induction n with
  | zero => rfl
  | succ n ih =>
    have at_n := begun.pulsedTimes (k := n) (by omega)
    have before := ih (by omega) fun k hk => passes k (by omega)
    obtain ⟨rises, falls⟩ := passes n (by omega)
    have script := pulsedTimes_script n s
    rw [Nat.mul_succ, run_add _ _ before]
    exact run_pulse (by rw [at_n.sym, ofNat_toNat_sym (by omega)]; omega) at_n.low (mayPass_of_same script rises)
      (mayPass_of_same script falls)

/-- An emission that begins is before symbol 0 (R160). -/
theorem startEmission_atSymbol (f : Frame) (byHost : Bool) (s : State) :
    AtSymbol f s.clock 0 ((startEmission byHost f s).answer [] []) :=
  ⟨rfl, rfl, rfl, (after_zero _).symm⟩

/-- Settles O20: with an empty script time passes to every transition, and a pulse advances the deadline by its
nominal total whatever its draws are. -/
theorem deadlinesDoNotDependOnJitter : Obligations.DeadlinesDoNotDependOnJitter := by
  intro f s lead idle script
  have begun := startEmission_atSymbol f true s
  refine ⟨_, (exec_emit_of_idle idle f).trans (congrArg _ (beginEmit_of_leadIn lead s)), fun k hk => ?_⟩
  obtain ⟨sym, low, frame, deadline⟩ := begun.pulsedTimes hk
  exact ⟨_, run_pulses begun hk fun _ _ => ⟨.inl script, .inl script⟩, sym, low, frame, deadline⟩

/-! ## The nominal emission -/

/-- When the last fall before symbol `k` was, after the beginning (R154). -/
def lastFall (f : Frame) : Nat → Nat
  | 0 => 0
  | k + 1 => pulseStart k + pulseWidth f k

/-- The edges of the first `n` nominal pulses. -/
def nominalEdges (f : Frame) (t0 : Time) (n : Nat) : List Wave :=
  (List.range n).flatMap fun k => [.edge .txOut true (nominalPulse f t0 k).1, .edge .txOut false (nominalPulse f t0 k).2]

theorem nominalEdges_succ (f : Frame) (t0 : Time) (n : Nat) :
    nominalEdges f t0 (n + 1) = nominalEdges f t0 n ++
      [.edge .txOut true (after t0 (pulseStart n)), .edge .txOut false (after t0 (lastFall f (n + 1)))] := by
  simp [nominalEdges, List.range_succ, nominalPulse, lastFall]

/-- An emission of `f` begun in `s`, after `k` nominal pulses. -/
def emitting (byHost : Bool) (f : Frame) (s : State) (k : Nat) : State :=
  { s with
    tx := { s.tx with
      frame := f, sym := BitVec.ofNat 6 k, deadline := after s.clock (pulseStart k), out := false, active := true,
      gap := false, fallAt := after s.clock (lastFall f k), byHost := byHost }
    waves := s.waves ++ [.emitted f s.clock, .edge .txActive true s.clock] ++ nominalEdges f s.clock k
    clock := after s.clock (lastFall f k)
    delivered := [], reasons := [] }

theorem startEmission_eq_emitting (byHost : Bool) (f : Frame) (s : State) :
    (startEmission byHost f s).answer [] [] = emitting byHost f s 0 := by
  simp [startEmission, emitting, State.answer, pulseStart, lastFall, nominalEdges]

theorem lastFall_le (f : Frame) (k : Nat) : lastFall f k ≤ pulseStart k := by
  cases k with
  | zero => exact le_rfl
  | succ k =>
    rw [lastFall, pulseStart_succ]
    exact Nat.add_le_add_left (pulseWidth_lt_total f k).le _

theorem pulseStart_le {k : Nat} (hk : k ≤ 42) : pulseStart k ≤ 43250 := by
  unfold pulseStart
  split <;> omega

section
variable {byHost : Bool} {f : Frame} {s : State} (draws : s.draws = [])
include draws

/-- With no draws the pulse is in time, so it rises at the deadline and falls its nominal width later. -/
theorem emitting_times {k : Nat} (hk : k ≤ 41) :
    riseTime (emitting byHost f s k).tx (emitting byHost f s k).draws = after s.clock (pulseStart k) ∧
    fallTime (emitting byHost f s k).tx (emitting byHost f s k).draws = after s.clock (lastFall f (k + 1)) := by
  have start := pulseStart_le (k := k) (by omega)
  obtain ⟨rise, fall⟩ := nominal_times (s := emitting byHost f s k) draws (isDue_after _ (lastFall_le f k) (by omega))
  refine ⟨rise, fall.trans ?_⟩
  simp only [emitting, ofNat_toNat_sym (Nat.le_succ_of_le hk), after_after, lastFall]

theorem pulsed_emitting {k : Nat} (hk : k ≤ 41) : pulsed (emitting byHost f s k) = emitting byHost f s (k + 1) := by
  obtain ⟨rise, fall⟩ := emitting_times (byHost := byHost) (f := f) draws hk
  have start := pulseStart_le (k := k + 1) (by omega)
  have fallsBefore := lastFall_le f (k + 1)
  have clock : later (later (after s.clock (lastFall f k)) (after s.clock (pulseStart k)))
      (after s.clock (lastFall f (k + 1))) = after s.clock (lastFall f (k + 1)) := by
    have risesBefore : pulseStart k ≤ lastFall f (k + 1) := Nat.le_add_right ..
    rw [later_after _ (lastFall_le f k) (by omega), later_after _ risesBefore (by omega)]
  rw [pulsed, rise, fall]
  simp only [emitting, clock, ofNat_toNat_sym (Nat.le_succ_of_le hk), after_after, ← pulseStart_succ, nominalEdges_succ,
    BitVec.ofNat_add, List.append_assoc, draws, List.tail_nil]

theorem pulsedTimes_emitting {k : Nat} (hk : k ≤ 42) :
    pulsedTimes k (emitting byHost f s 0) = emitting byHost f s k := by
  induction k with
  | zero => rfl
  | succ k ih => rw [pulsedTimes, ih (by omega), pulsed_emitting draws (by omega)]

end

/-- The state at the end of a nominal emission of `f` begun in `s` (R154, R155, R159). -/
def emissionDone (byHost : Bool) (f : Frame) (s : State) : State :=
  { s with
    tx := { s.tx with
      frame := f, sym := 63#6, deadline := after s.clock 52250, out := false, active := false, gap := false,
      fallAt := after s.clock 42500, byHost := byHost }
    clock := after s.clock 52250
    waves := s.waves ++ [.emitted f s.clock, .edge .txActive true s.clock] ++ lineWaves (nominalPulse f s.clock) ++
      [.edge .txActive false (after s.clock 43250), .returned (after s.clock 52250)]
    delivered := if byHost then [.emitReturned] else [], reasons := [] }

/-- The state between trailer and return: the indicator has fallen, the silence runs (R155, R157). -/
def inSilence (byHost : Bool) (f : Frame) (s : State) : State :=
  { s with
    tx := { s.tx with
      frame := f, sym := 42#6, deadline := after s.clock 52250, out := false, active := false, gap := true,
      fallAt := after s.clock 42500, byHost := byHost }
    clock := after s.clock 43250
    waves := s.waves ++ [.emitted f s.clock, .edge .txActive true s.clock] ++ lineWaves (nominalPulse f s.clock) ++
      [.edge .txActive false (after s.clock 43250)]
    delivered := [], reasons := [] }

theorem step_emitting_trailer {byHost : Bool} {f : Frame} {s : State} (passes : mayPass s (after s.clock 43250)) :
    step (emitting byHost f s 42) = .next (inSilence byHost f s) := by
  have last : lastFall f 42 = 42500 := by simp [lastFall, pulseStart, pulseWidth]
  have trailer : pulseStart 42 = 43250 := by simp [pulseStart]
  have deadline : (emitting byHost f s 42).tx.deadline = after s.clock 43250 := congrArg (after s.clock) trailer
  rw [step_gapStart rfl rfl rfl (deadline ▸ mayPass_of_same rfl passes), deadline, after_after]
  simp [emitting, inSilence, last, later_after, lineWaves, nominalEdges]

theorem step_inSilence {byHost : Bool} {f : Frame} {s : State} (passes : mayPass s (after s.clock 52250)) :
    step (inSilence byHost f s) = .next (emissionDone byHost f s) := by
  rw [step_return (s := inSilence byHost f s) rfl rfl rfl passes]
  simp [emissionDone, inSilence, later_after]

/-- A nominal emission is 84 steps of pulses and two more, where time passes to the return (log entry 3). -/
theorem run_emission {byHost : Bool} {f : Frame} {s : State} (draws : s.draws = [])
    (passes : ∀ us ≤ 52250, mayPass s (after s.clock us)) :
    Sys2Proof.core.run 86 ((startEmission byHost f s).answer [] []) = .next (emissionDone byHost f s) := by
  have begun := startEmission_atSymbol f byHost s
  rw [startEmission_eq_emitting] at begun ⊢
  have pulses : Sys2Proof.core.run 84 (emitting byHost f s 0) = .next (emitting byHost f s 42) := by
    rw [← pulsedTimes_emitting draws le_rfl]
    refine run_pulses begun le_rfl fun k hk => ?_
    rw [pulsedTimes_emitting draws (by omega)]
    obtain ⟨rise, fall⟩ := emitting_times (byHost := byHost) (f := f) draws (k := k) (by omega)
    have start := pulseStart_le (k := k + 1) (by omega)
    have start' := pulseStart_le (k := k) (by omega)
    have fallsBefore := lastFall_le f (k + 1)
    rw [rise, fall]
    exact ⟨passes _ (by omega), passes _ (by omega)⟩
  rw [show 86 = 84 + 2 from rfl, run_add 84 2 pulses, run_succ 1 (step_emitting_trailer (passes _ (by omega))),
    run_succ 0 (step_inSilence (passes _ le_rfl))]
  rfl

/-- Settles O19: the emission that an idle agent's EMIT begins, the host's. -/
theorem emissionDrivesTheNominalWaveform : Obligations.EmissionDrivesTheNominalWaveform := by
  intro f s lead idle draws script
  have passes (us : Nat) (le : us ≤ 52250) : mayPass s (after s.clock us) := by
    obtain script | ⟨d, rest, script, lo, hi⟩ := script
    · exact .inl script
    · exact .inr ⟨_, rest, script, isDue_after _ (le.trans lo) hi⟩
  exact ⟨_, _, (exec_emit_of_idle idle f).trans (congrArg _ (beginEmit_of_leadIn lead s)), run_emission draws passes, rfl⟩

end Sys2Proof.Claims
end

section
/-!
PROOF. The session (R170 to R178): its beginning, its checks and its rounds.
-/

namespace Sys2Proof.Claims

open Sys2Proof Sys2Proof.Machine

/-! ## The frames of a session -/

theorem encodeChannels_of_command {cmd : BitVec 3} (command : isCommand cmd) (key : BitVec 16) (power : BitVec 8)
    {chs : List (BitVec 2)} (channels : ∀ c ∈ chs, isChannel c) :
    encodeChannels key cmd power chs = some (chs.map fun c => (packetEncode key c cmd power).1) := by
  induction chs with
  | nil => rfl
  | cons c chs ih =>
    have rest := ih fun d mem => channels d (List.mem_cons_of_mem _ mem)
    have valid : packetEncode key c cmd power = ((packetEncode key c cmd power).1, true) :=
      Prod.ext rfl (packetEncode_valid_iff.mpr ⟨channels c (List.mem_cons_self ..), command⟩)
    rw [encodeChannels, rest, valid]
    rfl

theorem encodeChannels_of_noCommand {cmd : BitVec 3} (noCommand : ¬ isCommand cmd) (key : BitVec 16) (power : BitVec 8)
    (c : BitVec 2) (chs : List (BitVec 2)) : encodeChannels key cmd power (c :: chs) = none := by
  rw [encodeChannels, packetEncode_invalid fun valid => noCommand valid.2]

theorem selected_isChannel {sel c : BitVec 2} (mem : c ∈ selected sel) : isChannel c := by
  unfold selected at mem
  split_ifs at mem <;> simp_all [isChannel]

theorem selected_eq_nil {sel : BitVec 2} : selected sel = [] ↔ sel = 0#2 := by
  revert sel
  decide

theorem roundFrames_eq (key : BitVec 16) (cmd : BitVec 3) (sel : BitVec 2) (power : BitVec 8) :
    roundFrames key cmd sel power = (selected sel).map fun c => (packetEncode key c cmd power).1 := by
  unfold roundFrames selected
  split_ifs <;> rfl

/-- A legal command and a non-empty selector begin the session of the round's frames (R170, R172). -/
theorem startSession_of_legal {cmd : BitVec 3} {sel : BitVec 2} (command : isCommand cmd) (some : sel ≠ 0#2)
    (power : BitVec 8) (budget : BitVec 32) (ce k : Bool) (s : State) :
    ∃ f fs, roundFrames s.tx.key cmd sel power = f :: fs ∧
      startSession cmd sel power budget ce k s = (beginSession f fs budget ce k s).answer [] [] := by
  have encoded := encodeChannels_of_command command s.tx.key power (chs := selected sel) fun _ => selected_isChannel
  rw [← roundFrames_eq] at encoded
  cases frames : roundFrames s.tx.key cmd sel power with
  | nil =>
    rw [roundFrames_eq, List.map_eq_nil_iff, selected_eq_nil] at frames
    exact absurd frames some
  | cons f fs =>
    refine ⟨f, fs, rfl, ?_⟩
    rw [startSession, encoded, frames]

theorem startSession_of_illegal {cmd : BitVec 3} {sel : BitVec 2} (illegal : ¬ isCommand cmd ∨ sel = 0#2)
    (power : BitVec 8) (budget : BitVec 32) (ce k : Bool) (s : State) :
    startSession cmd sel power budget ce k s =
      refuseSession (if sel = 0#2 then .sessionNoChannel else .sessionEncodeFailed) s := by
  cases channels : selected sel with
  | nil =>
    rw [startSession, channels, if_pos (selected_eq_nil.mp channels)]
    rfl
  | cons c chs =>
    have some : sel ≠ 0#2 := by simp [← selected_eq_nil, channels]
    rw [startSession, channels, encodeChannels_of_noCommand (illegal.resolve_right some), if_neg some]

theorem exec_sessionRun_of_idle {s : State} (idle : agentIdle s) (cmd : BitVec 3) (sel : BitVec 2) (power : BitVec 8)
    (budget : BitVec 32) (ce c : Bool) : exec (.sessionRun cmd sel power budget ce c) s =
      .next (startSession cmd sel power budget ce false { s with cancel := c }) :=
  callTransmit_of_idle idle (.session cmd sel power budget ce c)

/-- Settles O23. -/
theorem sessionEncodesItsFramesAtStart : Obligations.SessionEncodesItsFramesAtStart := by
  intro cmd sel power budget ce c s idle command some
  obtain ⟨f, fs, frames, begun⟩ := startSession_of_legal command some power budget ce false { s with cancel := c }
  refine ⟨f, fs, frames, ?_⟩
  rw [exec_sessionRun_of_idle idle, begun]
  rfl

/-- Settles O24. -/
theorem sessionErrorsSendNothing : Obligations.SessionErrorsSendNothing := by
  intro cmd sel power budget ce c s idle illegal
  rw [exec_sessionRun_of_idle idle, startSession_of_illegal illegal]
  rfl

theorem keepaliveDue_iff (s : State) :
    keepaliveDue s = true ↔ s.ka.mask ≠ 0#2 ∧ 120 < (s.hostSeconds - s.ka.tLast).toNat := by
  rw [keepaliveDue, Bool.and_eq_true, bne_iff_ne, decide_eq_true_eq]
  rfl

/-- Settles O28: LED is a command, so the session of a non-empty mask begins. -/
theorem keepaliveTickIssuesTheFixedSession : Obligations.KeepaliveTickIssuesTheFixedSession := by
  intro s idle
  have begins : exec .keepaliveTick s = .next (beginKeepalive s) := callTransmit_of_idle idle .keepalive
  rw [begins, ← keepaliveDue_iff]
  refine ⟨fun due => ?_, fun notDue => congrArg _ (if_neg notDue)⟩
  obtain ⟨mask, -⟩ := (keepaliveDue_iff s).mp due
  obtain ⟨f, fs, frames, begun⟩ := startSession_of_legal (.inl rfl) mask Config.keepalivePower
    (BitVec.ofInt 32 (-(Config.keepaliveRepeats : Int))) false true s
  refine ⟨f, fs, frames, ?_⟩
  rw [beginKeepalive, if_pos due, begun]
  rfl

/-! ## The loop -/

/-- A step of a running session between two emissions, where time may pass. -/
theorem step_of_session {s : State} (passes : mayPass s s.clock) (sym : s.tx.sym = 63#6) (running : s.ses.phase ≠ .idle) :
    step s = .next (sessionTurn s) := by
  have free := (busy_eq_false s.tx).mpr sym
  have unfinished := (callsUnfinished_iff s).mpr (.inl running)
  rw [step_of_mayPass passes (by simp [agentMoment, free, unfinished])]
  simp [agentTurn, free, SesGroup.running, running]

/-- The poll that a check shows, where a predicate is provided (R174). -/
def checkPolls (s : State) : List Wave := if s.ses.cancelEn = true then [.polled s.cancel s.clock] else []

theorem polled_eq (s : State) :
    (if s.ses.cancelEn then s.show [.polled s.cancel s.clock] else s) = s.show (checkPolls s) := by
  unfold checkPolls
  cases s.ses.cancelEn <;> simp [State.show]

theorem sessionCheck_of_cancelled {s : State} (cancelled : s.ses.cancelEn = true ∧ s.cancel = true) :
    sessionCheck s = endSession .cancelled (s.show (checkPolls s)) := by
  rw [← polled_eq]
  exact if_pos (by simp [cancelled])

theorem sessionCheck_of_reached {s : State} (going : ¬ (s.ses.cancelEn = true ∧ s.cancel = true))
    (reached : budgetReached Config.budgetUnitUs s.ses s.clock = true) :
    sessionCheck s = endSession .ok (s.show (checkPolls s)) := by
  rw [← polled_eq]
  exact (if_neg (by simpa using going)).trans (if_pos reached)

theorem sessionCheck_of_going {s : State} (going : ¬ (s.ses.cancelEn = true ∧ s.cancel = true))
    (notReached : ¬ budgetReached Config.budgetUnitUs s.ses s.clock = true) :
    sessionCheck s = ({ s.show (checkPolls s) with ses := { s.ses with phase := .round 0 } }).answer [] [] := by
  rw [← polled_eq]
  exact (if_neg (by simpa using going)).trans (if_neg notReached)

/-- Both kinds of budget, by its sign (R171). -/
theorem budgetReached_iff (unit : Nat) (ses : SesGroup) (now : Time) : budgetReached unit ses now = true ↔
    (0 ≤ ses.budget.toInt ∧ ses.budget.toInt.toNat * unit ≤ (now - ses.tBegin).toNat) ∨
      (ses.budget.toInt < 0 ∧ (-ses.budget.toInt).toNat ≤ ses.round.toNat) := by
  unfold budgetReached
  by_cases duration : 0 ≤ ses.budget.toInt
  · have magnitude : ses.budget.toNat = ses.budget.toInt.toNat := by
      rw [BitVec.toInt_eq_toNat_cond] at duration ⊢
      split at duration <;> omega
    simp [duration, magnitude]
  · have magnitude : ses.budget.toInt.natAbs = (-ses.budget.toInt).toNat := by omega
    simp [duration, magnitude, not_le.mp duration]

theorem sessionTurn_of_check {s : State} (check : s.ses.phase = .check) : sessionTurn s = sessionCheck s := by
  simp only [sessionTurn, check]

theorem sessionTurn_of_round {s : State} {i : Nat} (round : s.ses.phase = .round i) :
    sessionTurn s = sessionRound i s := by
  simp only [sessionTurn, round]

/-- Settles O25: the three outcomes of the check. -/
theorem sessionChecksCancellationThenBudget : Obligations.SessionChecksCancellationThenBudget := by
  intro s passes sym check polls reached ka
  have reached_iff : budgetReached Config.budgetUnitUs s.ses s.clock = true ↔ reached := budgetReached_iff ..
  rw [step_of_session passes sym (by simp [check]), sessionTurn_of_check check]
  refine ⟨fun cancelled => ?_, fun going end_ => ?_, fun going more => ?_⟩
  · rw [sessionCheck_of_cancelled cancelled]
    rfl
  · rw [sessionCheck_of_reached going (reached_iff.mpr end_)]
    rfl
  · rw [sessionCheck_of_going going (mt reached_iff.mp more)]
    rfl

/-- Settles O26: the two cases of a place in the round. -/
theorem sessionRoundEmitsEachFrameOnce : Obligations.SessionRoundEmitsEachFrameOnce := by
  intro s i passes sym round
  rw [step_of_session passes sym (by simp [round]), sessionTurn_of_round round]
  exact ⟨fun more => congrArg _ (if_pos more), fun done => congrArg _ (if_neg (Nat.not_lt.mpr done))⟩

end Sys2Proof.Claims
end

section
/-!
PROOF. Whole sessions with a count budget (R177), by what a run of the agent sends, polls and takes.
-/

namespace Sys2Proof.Claims

open Sys2Proof Sys2Proof.Machine

theorem emittedFrames_append (ws vs : List Wave) : emittedFrames (ws ++ vs) = emittedFrames ws ++ emittedFrames vs :=
  List.filterMap_append

theorem pollCount_append (ws vs : List Wave) : pollCount (ws ++ vs) = pollCount ws + pollCount vs := by
  simp [pollCount]

theorem mem_lineWaves {p : Nat → Time × Time} {w : Wave} (mem : w ∈ lineWaves p) :
    ∃ line level t, w = .edge line level t := by
  simp only [lineWaves, List.mem_flatMap, List.mem_cons, List.not_mem_nil, or_false] at mem
  obtain ⟨k, -, rfl | rfl⟩ := mem <;> exact ⟨_, _, _, rfl⟩

@[simp] theorem emittedFrames_lineWaves (p : Nat → Time × Time) : emittedFrames (lineWaves p) = [] := by
  refine List.filterMap_eq_nil_iff.mpr fun w mem => ?_
  obtain ⟨line, level, t, rfl⟩ := mem_lineWaves mem
  rfl

@[simp] theorem pollCount_lineWaves (p : Nat → Time × Time) : pollCount (lineWaves p) = 0 := by
  refine List.length_eq_zero_iff.mpr (List.filter_eq_nil_iff.mpr fun w mem => ?_)
  obtain ⟨line, level, t, rfl⟩ := mem_lineWaves mem
  exact Bool.false_ne_true

/-- A run with no draws and an empty script from `s` to `t`, both between emissions, that sends the frames `fs`, polls
`polls` times, takes `us`, and leaves what is not the session's as it was. -/
structure Sends (s t : State) (fs : List Frame) (polls us : Nat) : Prop where
  run : ∃ k, Sys2Proof.core.run k s = .next t
  sym : t.tx.sym = 63#6
  draws : t.draws = []
  script : t.script = []
  key : t.tx.key = s.tx.key
  rx : t.rx = s.rx
  cancel : t.cancel = s.cancel
  txCalls : t.txCalls = s.txCalls
  frames : emittedFrames t.waves = emittedFrames s.waves ++ fs
  polls : pollCount t.waves = pollCount s.waves + polls
  clock : t.clock = after s.clock us

theorem Sends.trans {s t u : State} {fs gs : List Frame} {p q a b : Nat} (first : Sends s t fs p a)
    (second : Sends t u gs q b) : Sends s u (fs ++ gs) (p + q) (a + b) where
  run := by
    obtain ⟨k, run⟩ := first.run
    obtain ⟨l, run'⟩ := second.run
    exact ⟨k + l, (run_add k l run).trans run'⟩
  sym := second.sym
  draws := second.draws
  script := second.script
  key := second.key.trans first.key
  rx := second.rx.trans first.rx
  cancel := second.cancel.trans first.cancel
  txCalls := second.txCalls.trans first.txCalls
  frames := by rw [second.frames, first.frames, List.append_assoc]
  polls := by rw [second.polls, first.polls, Nat.add_assoc]
  clock := by rw [second.clock, first.clock, after_after]

/-- Between emissions, with no draws and an empty script. -/
structure Between (s : State) : Prop where
  sym : s.tx.sym = 63#6
  draws : s.draws = []
  script : s.script = []

theorem Sends.between {s t : State} {fs : List Frame} {p a : Nat} (sends : Sends s t fs p a) : Between t :=
  ⟨sends.sym, sends.draws, sends.script⟩

theorem Sends.refl {s : State} (between : Between s) : Sends s s [] 0 0 :=
  ⟨⟨0, rfl⟩, between.sym, between.draws, between.script, rfl, rfl, rfl, rfl, by simp, rfl, (after_zero _).symm⟩

/-- Whose frames a session's round sends, in order (R173). -/
def sesFrames (ses : SesGroup) : List Frame := (List.range ses.n.toNat).map ses.frame

section
variable {s : State} (between : Between s)
include between

theorem Between.step_session (running : s.ses.phase ≠ .idle) : step s = .next (sessionTurn s) :=
  step_of_session (.inl between.script) between.sym running

/-- One frame of a round: its emission is a step that begins it and 86 that carry it on. -/
theorem Between.sends_frame {i : Nat} (round : s.ses.phase = .round i) (more : i < s.ses.n.toNat) :
    ∃ t, Sends s t [s.ses.frame i] 0 52250 ∧ t.ses = { s.ses with phase := .round (i + 1) } := by
  have begins : step s = .next ((startEmission false (s.ses.frame i)
      { s with ses := { s.ses with phase := .round (i + 1) } }).answer [] []) := by
    rw [between.step_session (by simp [round]), sessionTurn_of_round round, sessionRound, if_pos more]
  have run := run_emission (byHost := false) (f := s.ses.frame i)
    (s := { s with ses := { s.ses with phase := .round (i + 1) } }) between.draws fun _ _ => .inl between.script
  refine ⟨_, ⟨⟨87, (run_succ 86 begins).trans run⟩, rfl, between.draws, between.script, rfl, rfl, rfl, rfl, ?_, ?_, rfl⟩,
    rfl⟩
  · simp only [emissionDone, emittedFrames_append, emittedFrames_lineWaves]
    simp [emittedFrames]
  · simp only [emissionDone, pollCount_append, pollCount_lineWaves]
    simp [pollCount]

/-- The first `i` frames of a round. -/
theorem Between.sends_frames (round : s.ses.phase = .round 0) {i : Nat} (le : i ≤ s.ses.n.toNat) :
    ∃ t, Sends s t ((List.range i).map s.ses.frame) 0 (i * 52250) ∧ t.ses = { s.ses with phase := .round i } := by
  induction i with
  | zero => exact ⟨s, by simpa using Sends.refl between, by rw [← round]⟩
  | succ i ih =>
    obtain ⟨t, sends, ses⟩ := ih (Nat.le_of_succ_le le)
    obtain ⟨u, frame, ses'⟩ := sends.between.sends_frame (i := i) (by rw [ses]) (by rw [ses]; exact le)
    refine ⟨u, ?_, by rw [ses', ses]⟩
    rw [List.range_succ, List.map_append, Nat.succ_mul]
    have same : t.ses.frame i = s.ses.frame i := by rw [ses]; rfl
    exact sends.trans (same ▸ frame)

/-- A check that goes on: a poll where a predicate is provided. -/
theorem Between.sends_check (check : s.ses.phase = .check) (going : s.cancel = false)
    (notReached : ¬ budgetReached Config.budgetUnitUs s.ses s.clock = true) :
    ∃ t, Sends s t [] s.ses.cancelEn.toNat 0 ∧ t.ses = { s.ses with phase := .round 0 } := by
  have steps : step s = .next (({ s.show (checkPolls s) with ses := { s.ses with phase := .round 0 } }).answer [] []) := by
    rw [between.step_session (by simp [check]), sessionTurn_of_check check,
      sessionCheck_of_going (by simp [going]) notReached]
  refine ⟨_, ⟨⟨1, run_succ 0 steps⟩, between.sym, between.draws, between.script, rfl, rfl, rfl, rfl, ?_, ?_,
    (after_zero _).symm⟩, rfl⟩
  · simp only [State.answer_waves, State.show_waves, emittedFrames_append, checkPolls]
    cases s.ses.cancelEn <;> simp [emittedFrames]
  · simp only [State.answer_waves, State.show_waves, pollCount_append, checkPolls]
    cases s.ses.cancelEn <;> simp [pollCount]

/-- The end of a round counts it (R173). -/
theorem Between.sends_count (round : s.ses.phase = .round s.ses.n.toNat) :
    ∃ t, Sends s t [] 0 0 ∧ t.ses = { s.ses with phase := .check, round := s.ses.round + 1#32 } := by
  have steps : step s =
      .next (({ s with ses := { s.ses with phase := .check, round := s.ses.round + 1#32 } }).answer [] []) := by
    rw [between.step_session (by simp [round]), sessionTurn_of_round round, sessionRound, if_neg (lt_irrefl _)]
  exact ⟨_, ⟨⟨1, run_succ 0 steps⟩, between.sym, between.draws, between.script, rfl, rfl, rfl, rfl, by simp, rfl,
    (after_zero _).symm⟩, rfl⟩

/-- A whole round: the check, the frames, the count. -/
theorem Between.sends_round (check : s.ses.phase = .check) (going : s.cancel = false)
    (notReached : ¬ budgetReached Config.budgetUnitUs s.ses s.clock = true) :
    ∃ t, Sends s t (sesFrames s.ses) s.ses.cancelEn.toNat (s.ses.n.toNat * 52250) ∧
      t.ses = { s.ses with round := s.ses.round + 1#32 } := by
  obtain ⟨t, checks, ses⟩ := between.sends_check check going notReached
  obtain ⟨u, frames, ses'⟩ := checks.between.sends_frames (i := s.ses.n.toNat) (by rw [ses]) (by rw [ses])
  obtain ⟨v, counts, ses''⟩ := frames.between.sends_count (by rw [ses', ses])
  have same : (List.range s.ses.n.toNat).map t.ses.frame = sesFrames s.ses := by rw [ses]; rfl
  refine ⟨v, ?_, by rw [ses'', ses', ses, ← check]⟩
  simpa [same] using (checks.trans frames).trans counts

end

/-! ## The count budget -/

/-- A session of the frames `fs` with the budget of `N` rounds is at its first check, and no cancellation stands. -/
structure SessionBegun (s : State) (fs : List Frame) (N : Nat) : Prop where
  between : Between s
  check : s.ses.phase = .check
  going : s.cancel = false
  frames : sesFrames s.ses = fs
  round : s.ses.round = 0#32
  budget : s.ses.budget = BitVec.ofInt 32 (-(N : Int))

theorem toInt_countBudget {N : Nat} (hN : N ≤ 2 ^ 31) : (BitVec.ofInt 32 (-(N : Int))).toInt = -N := by
  rw [BitVec.toInt_ofInt]
  exact Int.bmod_eq_of_le (by omega) (by omega)

/-- A budget of `N` rounds is reached when `N` are counted (R171). -/
theorem countBudget_reached {N r : Nat} (pos : 1 ≤ N) (hN : N ≤ 2 ^ 31) (hr : r ≤ N) {ses : SesGroup}
    (budget : ses.budget = BitVec.ofInt 32 (-(N : Int))) (round : ses.round = BitVec.ofNat 32 r) (unit : Nat) (now : Time) :
    budgetReached unit ses now = true ↔ r = N := by
  have count : ses.round.toNat = r := by
    rw [round, BitVec.toNat_ofNat]
    omega
  rw [budgetReached_iff, budget, toInt_countBudget hN, count]
  omega

section
variable {s : State} {fs : List Frame} {N : Nat} (begun : SessionBegun s fs N) (pos : 1 ≤ N) (hN : N ≤ 2 ^ 31)
include begun pos hN

/-- After `r` rounds the session is at the check again, with `r` counted. -/
theorem SessionBegun.sends_rounds {r : Nat} (hr : r ≤ N) :
    ∃ t, Sends s t (List.replicate r fs).flatten (r * s.ses.cancelEn.toNat) (r * (s.ses.n.toNat * 52250)) ∧
      t.ses = { s.ses with round := BitVec.ofNat 32 r } := by
  induction r with
  | zero => exact ⟨s, by simpa using Sends.refl begun.between, by rw [← begun.round]⟩
  | succ r ih =>
    obtain ⟨t, rounds, ses⟩ := ih (Nat.le_of_succ_le hr)
    have notReached := mt (countBudget_reached pos hN (Nat.le_of_succ_le hr) (ses := t.ses) (by rw [ses, begun.budget])
      (by rw [ses]) Config.budgetUnitUs t.clock).mp (by omega)
    obtain ⟨u, round, ses'⟩ := rounds.between.sends_round (by rw [ses, begun.check]) (rounds.cancel.trans begun.going)
      notReached
    have same : sesFrames t.ses = fs := by
      rw [ses, ← begun.frames]
      rfl
    refine ⟨u, ?_, by rw [ses', ses, BitVec.ofNat_add]⟩
    rw [List.replicate_succ', List.flatten_append, List.flatten_singleton, Nat.succ_mul, Nat.succ_mul]
    rw [same, ses] at round
    exact rounds.trans round

/-- The whole session: `N` rounds, `N + 1` polls, and then OK (R177). -/
theorem SessionBegun.sends_session :
    ∃ t, Sends s t (List.replicate N fs).flatten ((N + 1) * s.ses.cancelEn.toNat) (N * (s.ses.n.toNat * 52250)) ∧
      t.ses = { s.ses with phase := .idle, result := .ok, done := true, round := BitVec.ofNat 32 N } ∧
      t.delivered = [.session .ok] := by
  obtain ⟨t, rounds, ses⟩ := begun.sends_rounds pos hN le_rfl
  have check : t.ses.phase = .check := by rw [ses, begun.check]
  have reached := (countBudget_reached pos hN le_rfl (ses := t.ses) (by rw [ses, begun.budget]) (by rw [ses])
    Config.budgetUnitUs t.clock).mpr rfl
  have between := rounds.between
  have ends : step t = .next (endSession .ok (t.show (checkPolls t))) := by
    rw [between.step_session (by simp [check]), sessionTurn_of_check check,
      sessionCheck_of_reached (by simp [rounds.cancel, begun.going]) reached]
  have polls : Sends t (endSession .ok (t.show (checkPolls t))) [] t.ses.cancelEn.toNat 0 := by
    refine ⟨⟨1, run_succ 0 ends⟩, between.sym, between.draws, between.script, rfl, rfl, rfl, rfl, ?_, ?_,
      (after_zero _).symm⟩
    · simp only [endSession, State.show_waves, emittedFrames_append, checkPolls]
      cases t.ses.cancelEn <;> simp [emittedFrames]
    · simp only [endSession, State.show_waves, pollCount_append, checkPolls]
      cases t.ses.cancelEn <;> simp [pollCount]
  have result : (endSession .ok (t.show (checkPolls t))).ses =
      { t.ses with phase := .idle, result := .ok, done := true } := rfl
  refine ⟨_, ?_, by rw [result, ses], rfl⟩
  rw [ses] at polls
  simpa [Nat.succ_mul] using rounds.trans polls

end

/-- The frames that a session latches are those of its round. -/
theorem sesFrames_beginSession {f : Frame} {fs : List Frame} (one : fs.length ≤ 1) (budget : BitVec 32) (ce k : Bool)
    (s : State) : sesFrames (beginSession f fs budget ce k s).ses = f :: fs := by
  cases fs with
  | nil => rfl
  | cons g gs =>
    obtain rfl := List.eq_nil_of_length_eq_zero (Nat.le_zero.mp (Nat.le_of_succ_le_succ one))
    rfl

/-- A legal session between emissions begins as `sends_session` needs it. -/
theorem startSession_begun {cmd : BitVec 3} {sel : BitVec 2} (command : isCommand cmd) (some : sel ≠ 0#2)
    (power : BitVec 8) (N : Nat) (ce : Bool) {s : State} (between : Between s) (going : s.cancel = false) :
    ∃ t, startSession cmd sel power (BitVec.ofInt 32 (-(N : Int))) ce false s = t ∧
      SessionBegun t (roundFrames s.tx.key cmd sel power) N ∧
      t.ses.n.toNat = (roundFrames s.tx.key cmd sel power).length ∧ t.ses.cancelEn = ce ∧ t.tx = s.tx ∧ t.rx = s.rx ∧
      t.waves = s.waves ∧ t.clock = s.clock ∧ t.txCalls = s.txCalls := by
  obtain ⟨f, fs, frames, begun⟩ := startSession_of_legal command some power (BitVec.ofInt 32 (-(N : Int))) ce false s
  have one : fs.length ≤ 1 := by
    have two := selected_length sel
    have length := congrArg List.length frames
    rw [roundFrames_eq, List.length_map, List.length_cons] at length
    omega
  rw [frames]
  refine ⟨_, begun, ⟨⟨between.sym, between.draws, between.script⟩, rfl, going, sesFrames_beginSession one .., rfl, rfl⟩,
    ?_, rfl, rfl, rfl, rfl, rfl, rfl⟩
  show (BitVec.ofNat 2 (fs.length + 1)).toNat = fs.length + 1
  rw [BitVec.toNat_ofNat]
  omega

/-- Settles O27: the session begins, and sends its rounds. -/
theorem countBudgetSendsExactlyThatManyRounds : Obligations.CountBudgetSendsExactlyThatManyRounds := by
  intro cmd sel power N ce s idle command some draws script pos hN fs
  obtain ⟨s₀, start, begun, n, enabled, tx, rx, waves, clock, -⟩ :=
    startSession_begun command some power N ce (s := { s with cancel := false }) ⟨idle.1, draws, script⟩ rfl
  obtain ⟨t, sends, ses, delivered⟩ := begun.sends_session pos hN
  obtain ⟨k, run⟩ := sends.run
  refine ⟨s₀, k, t, ?_, run, by rw [ses], by rw [ses], by rw [ses], delivered, by rw [ses], sends.sym,
    sends.rx.trans rx, sends.key.trans (congrArg TxGroup.key tx), ?_, ?_, ?_⟩
  · rw [exec_sessionRun_of_idle idle, start]
  · rw [sends.frames, waves]
  · rw [sends.polls, waves, enabled]
    cases ce <;> simp
  · rw [sends.clock, clock, n, Nat.mul_assoc]

/-! ## Calls one after another -/

/-- A session begun in `s`, or by the next step from `s`, has returned in `t`, having sent `fs` and taken `us`. -/
structure SessionReturns (s t : State) (fs : List Frame) (us : Nat) : Prop where
  run : ∃ k, Sys2Proof.core.run k s = .next t
  between : Between t
  idle : t.ses.phase = .idle
  delivered : t.delivered = [.session .ok]
  key : t.tx.key = s.tx.key
  frames : emittedFrames t.waves = emittedFrames s.waves ++ fs
  clock : t.clock = after s.clock us

/-- The state once the call `c` has joined those that wait. -/
def joinedBy (c : TxCall) (s : State) : State :=
  { s with txCalls := s.txCalls ++ [c], delivered := [], reasons := [] }

theorem SessionBegun.joinedBy {s : State} {fs : List Frame} {N : Nat} (begun : SessionBegun s fs N) (c : TxCall) :
    callTransmit c s = .next (joinedBy c s) ∧ SessionBegun (joinedBy c s) fs N :=
  ⟨callTransmit_of_unfinished begun.between.sym ((callsUnfinished_iff s).mpr (.inl (by simp [begun.check]))) c,
    ⟨begun.between.sym, begun.between.draws, begun.between.script⟩, begun.check, begun.going, begun.frames, begun.round,
    begun.budget⟩

theorem SessionBegun.returns {s : State} {fs : List Frame} {N : Nat} (begun : SessionBegun s fs N)
    (n : s.ses.n.toNat = fs.length) (pos : 1 ≤ N) (hN : N ≤ 2 ^ 31) :
    ∃ t, SessionReturns s t (List.replicate N fs).flatten (N * fs.length * 52250) ∧ t.txCalls = s.txCalls := by
  obtain ⟨t, sends, ses, delivered⟩ := begun.sends_session pos hN
  rw [n, ← Nat.mul_assoc] at sends
  exact ⟨t, ⟨sends.run, sends.between, by rw [ses], delivered, sends.key, sends.frames, sends.clock⟩, sends.txCalls⟩

section
variable {s : State} (between : Between s) (idle : s.ses.phase = .idle)
include between idle

/-- The session that waits first begins in the next step, and returns. -/
theorem Between.waitingSession_returns {cmd : BitVec 3} {sel : BitVec 2} {power : BitVec 8} {N : Nat} {cs : List TxCall}
    (calls : s.txCalls = .session cmd sel power (BitVec.ofInt 32 (-(N : Int))) false false :: cs)
    (command : isCommand cmd) (some : sel ≠ 0#2) (pos : 1 ≤ N) (hN : N ≤ 2 ^ 31) :
    ∃ t, SessionReturns s t (List.replicate N (roundFrames s.tx.key cmd sel power)).flatten
      (N * (roundFrames s.tx.key cmd sel power).length * 52250) ∧ t.txCalls = cs := by
  have begins := step_begins (.inl between.script) between.sym idle calls
  obtain ⟨u, start, begun, n, -, tx, -, waves, clock, waiting⟩ := startSession_begun command some power N false
    (s := { s with txCalls := cs, cancel := false }) ⟨between.sym, between.draws, between.script⟩ rfl
  have first : step s = .next u := begins.trans (congrArg _ start)
  obtain ⟨t, returns, rest⟩ := begun.returns n pos hN
  obtain ⟨k, run⟩ := returns.run
  refine ⟨t, ⟨⟨k + 1, (run_succ k first).trans run⟩, returns.between, returns.idle, returns.delivered, ?_, ?_, ?_⟩,
    rest.trans waiting⟩
  · rw [returns.key, tx]
  · rw [returns.frames, waves]
  · rw [returns.clock, clock]

/-- The EMIT that waits last begins in the next step, and returns to the host (R159). -/
theorem Between.waitingEmit_returns {f : Frame} (calls : s.txCalls = [.emit f]) (lead : leadIn f = true) :
    ∃ t k, Sys2Proof.core.run k s = .next t ∧ t.delivered = [.emitReturned] ∧
      emittedFrames t.waves = emittedFrames s.waves ++ [f] ∧ t.clock = after s.clock 52250 ∧ agentIdle t := by
  have begins : step s = .next ((startEmission true f { s with txCalls := [] }).answer [] []) :=
    (step_begins (.inl between.script) between.sym idle calls).trans (congrArg _ (beginEmit_of_leadIn lead _))
  have run := run_emission (byHost := true) (f := f) (s := { s with txCalls := [] }) between.draws
    fun _ _ => .inl between.script
  refine ⟨_, 87, (run_succ 86 begins).trans run, rfl, ?_, rfl, rfl, idle, rfl⟩
  simp only [emissionDone, emittedFrames_append, emittedFrames_lineWaves]
  simp [emittedFrames]

end

/-- Settles O55: each of the calls begins when the one before it has returned. -/
theorem callsReturnInTheOrderOfInvocation : Obligations.CallsReturnInTheOrderOfInvocation := by
  intro cmd cmd' sel sel' power power' N M f s idle command command' some some' lead draws script posN hN posM hM fs gs
  obtain ⟨s₁, start, begun, n, -, tx, -, waves, clock, calls⟩ :=
    startSession_begun command some power N false (s := { s with cancel := false }) ⟨idle.1, draws, script⟩ rfl
  obtain ⟨second, begun₂⟩ := begun.joinedBy (.session cmd' sel' power' (BitVec.ofInt 32 (-(M : Int))) false false)
  obtain ⟨third, begun₃⟩ := begun₂.joinedBy (.emit f)
  obtain ⟨t₁, returns₁, calls₁⟩ := begun₃.returns n posN hN
  obtain ⟨k₁, run₁⟩ := returns₁.run
  have key₁ : t₁.tx.key = s.tx.key := returns₁.key.trans (congrArg TxGroup.key tx)
  obtain ⟨t₂, returns₂, calls₂⟩ := returns₁.between.waitingSession_returns returns₁.idle (N := M) (cmd := cmd')
    (sel := sel') (power := power') (cs := [.emit f]) (by simp only [calls₁, joinedBy, calls, idle.2.2]; rfl) command' some' posM hM
  obtain ⟨k₂, run₂⟩ := returns₂.run
  rw [key₁] at returns₂
  obtain ⟨t₃, k₃, run₃, delivered₃, frames₃, clock₃, idle₃⟩ := returns₂.between.waitingEmit_returns returns₂.idle calls₂ lead
  refine ⟨s₁, _, _, t₁, t₂, t₃, k₁, k₂, k₃, ?_, second, third, run₁, returns₁.delivered, ?_, ?_, run₂,
    returns₂.delivered, returns₂.frames, returns₂.clock, run₃, delivered₃, frames₃, clock₃, idle₃⟩
  · rw [exec_sessionRun_of_idle idle, start]
  · exact returns₁.frames.trans (by simp only [joinedBy, waves]; rfl)
  · exact returns₁.clock.trans (by simp only [joinedBy, clock]; rfl)

end Sys2Proof.Claims
end

section
/-!
PROOF. What a receive call reports and what it keeps (60_exceptions.md sections 3 and 4), and a second sample of the same
level (20_memory.md section 4).
-/

namespace Sys2Proof.Claims

open Sys2Proof Sys2Proof.Machine

/-- The accepted command, its flag and its end time, and the filter. -/
def accepted (rx : RxGroup) : Tuple × Bool × Time × BitVec 16 := (rx.last, rx.lastValid, rx.tEnd, rx.keyFilter)

theorem accepted_eq_iff {rx rx' : RxGroup} : accepted rx' = accepted rx ↔
    rx'.last = rx.last ∧ rx'.lastValid = rx.lastValid ∧ rx'.tEnd = rx.tEnd ∧ rx'.keyFilter = rx.keyFilter := by
  simp [accepted]

/-! ## NONE keeps the accepted command -/

section
variable {t : Time} {rx : RxGroup}

theorem rxReport_ne_none (d : Tuple) : (rxReport d t rx).result ≠ .none := by
  obtain ⟨h, -⟩ | ⟨h, -⟩ := rxReport_cases d t rx <;> rw [h] <;> simp

theorem rxComplete_none (none : (rxComplete t rx).result = .none) : accepted (rxComplete t rx).rx = accepted rx := by
  obtain ⟨r, h⟩ | ⟨d, -, -, -, h⟩ := rxComplete_cases t rx
  · rw [h]
    rfl
  · exact absurd (h ▸ none) (rxReport_ne_none d)

theorem rxBit_none {b : Bool} (none : (rxBit b t rx).result = .none) : accepted (rxBit b t rx).rx = accepted rx := by
  obtain ⟨-, h⟩ | ⟨-, h⟩ | ⟨-, h⟩ := rxBit_cases b t rx <;> rw [h] at none ⊢
  · rfl
  · rfl
  · exact rxComplete_none none

theorem accepted_rxStart : accepted (rxStart t rx).rx = accepted rx := by
  rw [(rxStart_eq t rx).1]
  rfl

theorem rxFall_none (none : (rxFall t rx).result = .none) : accepted (rxFall t rx).rx = accepted rx := by
  obtain h | h | ⟨b, h⟩ := rxFall_cases t rx <;> rw [h] at none ⊢
  · rfl
  · exact accepted_rxStart
  · exact rxBit_none none

theorem rxSample_none {level : Bool} (none : (rxSample level t rx).result = .none) :
    accepted (rxSample level t rx).rx = accepted rx := by
  obtain ⟨-, h⟩ | ⟨-, -, h⟩ | ⟨-, -, h⟩ := rxSample_cases level t rx <;> rw [h] at none ⊢
  · rfl
  · rfl
  · exact rxFall_none none

theorem receiveCall_none {i : Instr} (none : (receiveCall i rx).result = .none) :
    accepted (receiveCall i rx).rx = accepted rx := by
  cases i with
  | rxSample level t => exact rxSample_none none
  | rxFall t => exact rxFall_none none
  | rxStart t => exact accepted_rxStart
  | rxBit b t => exact rxBit_none none
  | rxComplete t => exact rxComplete_none none
  | rxReport d t => exact absurd none (rxReport_ne_none d)
  | _ => rfl

end

/-- A run of samples with NONE throughout. -/
theorem rxFeed_none {es : List (Bool × Time)} {rx : RxGroup} (none : ∀ r ∈ (rxFeed es rx).results, r = .none) :
    accepted (rxFeed es rx).rx = accepted rx := by
  induction es generalizing rx with
  | nil => rfl
  | cons e es ih =>
    obtain ⟨first, rest⟩ := List.forall_mem_cons.mp none
    exact (ih rest).trans (rxSample_none first)

/-- Settles O37. -/
theorem noneKeepsTheAcceptedCommand : Obligations.NoneKeepsTheAcceptedCommand := by
  intro i s t single run none
  cases (exec_singleCall single s).symm.trans run
  exact accepted_eq_iff.mp (receiveCall_none (by simpa using none))

/-! ## A report is of a completed frame -/

theorem rxComplete_reports {t : Time} {rx : RxGroup} (reports : (rxComplete t rx).result ≠ .none) :
    ∃ d, packetDecode rx.buf rx.keyFilter = .ok d ∧ 37000 ≤ (t - rx.tStart).toNat ∧ (t - rx.tStart).toNat ≤ 42000 ∧
      rxComplete t rx = rxReport d t rx := by
  obtain ⟨r, h⟩ | complete := rxComplete_cases t rx
  · rw [h] at reports
    exact absurd rfl reports
  · exact complete

/-- A sample that reports is a fall that appends the last bit and completes the frame (R190 to R196). -/
theorem rxSample_completes {level : Bool} {t : Time} {rx : RxGroup} (reports : (rxSample level t rx).result ≠ .none) :
    ∃ b, rxSample level t rx = rxComplete t (appendBit b { rx with lastLevel := false }) := by
  obtain ⟨-, h⟩ | ⟨-, -, h⟩ | ⟨-, -, h⟩ := rxSample_cases level t rx <;> rw [h] at reports ⊢
  · exact absurd rfl reports
  · exact absurd rfl reports
  obtain h | h | ⟨b, h⟩ := rxFall_cases t { rx with lastLevel := false } <;> rw [h] at reports ⊢
  · exact absurd rfl reports
  · exact absurd (rxStart_eq t _).2 reports
  obtain ⟨-, h⟩ | ⟨-, h⟩ | ⟨-, h⟩ := rxBit_cases b t { rx with lastLevel := false } <;> rw [h] at reports ⊢
  · exact absurd rfl reports
  · exact absurd rfl reports
  · exact ⟨b, rfl⟩

/-- Settles O36: the group that is completed differs from the one before in line, counter and buffer only. -/
theorem acceptanceIsSound : Obligations.AcceptanceIsSound := by
  intro level T s t r run delivered reports
  cases (exec_rxSample s T level).symm.trans run
  obtain rfl : (rxSample level T s.rx).result = r := by simpa using delivered
  obtain ⟨b, completes⟩ := rxSample_completes reports
  rw [completes] at reports
  obtain ⟨d, decoded, lo, hi, report⟩ := rxComplete_reports reports
  have group : (s.takeRx (rxSample level T s.rx)).rx =
      { appendBit b { s.rx with lastLevel := false } with last := d, lastValid := true, tEnd := T } := by
    rw [State.takeRx_rx, completes, report, rxReport_rx]
  rw [group, completes, report, rxReport_result]
  exact ⟨lo, hi, decoded, rfl, rfl, rfl⟩

/-! ## The level -/

theorem rxBit_lastLevel (b : Bool) (t : Time) (rx : RxGroup) : (rxBit b t rx).rx.lastLevel = rx.lastLevel := by
  obtain ⟨-, h⟩ | ⟨-, h⟩ | ⟨-, h⟩ := rxBit_cases b t rx <;> rw [h]
  · rfl
  · rfl
  · exact (rxComplete_kept t _).lastLevel

theorem rxFall_lastLevel (t : Time) (rx : RxGroup) : (rxFall t rx).rx.lastLevel = rx.lastLevel := by
  obtain h | h | ⟨b, h⟩ := rxFall_cases t rx <;> rw [h]
  · rfl
  · rw [(rxStart_eq t rx).1]
  · exact rxBit_lastLevel b t rx

theorem rxSample_lastLevel (level : Bool) (t : Time) (rx : RxGroup) : (rxSample level t rx).rx.lastLevel = level := by
  obtain ⟨same, h⟩ | ⟨rfl, -, h⟩ | ⟨rfl, -, h⟩ := rxSample_cases level t rx <;> rw [h]
  · exact same.symm
  · rfl
  · exact rxFall_lastLevel t _

/-- Settles O38: the level of a sample is the last level after it. -/
theorem samplingTwiceIsIdempotent : Obligations.SamplingTwiceIsIdempotent := by
  intro level T T' s t run
  cases (exec_rxSample s T level).symm.trans run
  have same : level = (rxSample level T s.rx).rx.lastLevel := (rxSample_lastLevel level T s.rx).symm
  rw [exec_rxSample, State.takeRx_rx, rxSample_same same, State.takeRx_quietly]

end Sys2Proof.Claims
end

section
/-!
PROOF. What arrives on the input line (R89, R90, R104): the samples of symbols, slots and frames, on a low and on a high
line.
-/

namespace Sys2Proof.Claims

open Sys2Proof Sys2Proof.Machine

/-! ## A wave is its samples -/

theorem sampled_eq (es : List (Bool × Time)) (s : State) :
    ∃ ds rs, sampled es s = some ({ s with rx := (rxFeed es s.rx).rx, delivered := ds, reasons := rs },
      (rxFeed es s.rx).results.map .rx) := by
  induction es generalizing s with
  | nil => exact ⟨s.delivered, s.reasons, rfl⟩
  | cons e es ih =>
    obtain ⟨ds, rs, h⟩ := ih (s.takeRx (rxSample e.1 e.2 s.rx))
    refine ⟨ds, rs, ?_⟩
    simp only [sampled, exec_rxSample, h]
    rfl

theorem reasonsMet_eq (es : List (Bool × Time)) (s : State) : reasonsMet es s = (rxFeed es s.rx).reasons := by
  induction es generalizing s with
  | nil => rfl
  | cons e es ih =>
    simp only [reasonsMet, exec_rxSample, ih]
    rfl

/-- A wave on the line has the effect of its samples (log entries 5 to 7). -/
theorem receiveWave_arrives (es : List (Bool × Time)) (dur : Time) (s : State) :
    Arrives es (s.clock + dur) s (receiveWave es dur s) := by
  obtain ⟨ds, rs, h⟩ := sampled_eq es s
  refine ⟨_, _, h, ?_⟩
  rw [receiveWave_eq, reasonsMet_eq]

theorem frameSymbols_eq (f : Frame) : frameSymbols f = (List.range' 0 42).map (symbolAt f) := by
  have pulses : List.range' 0 42 = 0 :: (List.range 40).map (· + 1) ++ [41] := by decide
  have bits : (wireBits f).map Symbol.ofBit = (List.range 40).map fun k => symbolAt f (k + 1) := by
    rw [wireBits, List.map_map]
    refine List.map_congr_left fun k mem => ?_
    have few : k + 1 ≤ 40 := List.mem_range.mp mem
    simp only [Function.comp, symbolAt, if_neg (Nat.succ_ne_zero k), if_pos few]
    rw [show 40 - 1 - k = 40 - (k + 1) by omega]
  rw [frameSymbols, bits, pulses]
  simp only [List.cons_append, List.map_cons, List.map_append, List.map_map]
  rfl

/-- The samples of the symbols from the `k`-th on. -/
theorem symbolSamples_eq (f : Frame) (t0 : Time) (k n : Nat) :
    symbolSamples ((List.range' k n).map (symbolAt f)) (after t0 (pulseStart k)) =
      (List.range' k n).flatMap fun j => pulseEdges (nominalPulse f t0 j) := by
  induction n generalizing k with
  | zero => rfl
  | succ n ih =>
    have next : after t0 (pulseStart k) + ((symbolAt f k).on + (symbolAt f k).off) = after t0 (pulseStart (k + 1)) := by
      rw [symbolAt_on_off, pulseStart_succ, ← after_after]
      rfl
    have edges : pulse (symbolAt f k).on (after t0 (pulseStart k)) = pulseEdges (nominalPulse f t0 k) := by
      rw [pulse, pulseEdges, nominalPulse, symbolAt_on, ← after_after]
      rfl
    rw [List.range'_succ, List.map_cons, symbolSamples, next, ih, edges, List.flatMap_cons]

/-- A transmission is the 42 nominal pulses (R89, R154). -/
theorem frameSamples_eq (f : Frame) (t0 : Time) :
    symbolSamples (frameSymbols f) t0 = samplesOf (nominalPulse f t0) := by
  have samples := symbolSamples_eq f t0 0 42
  rw [show pulseStart 0 = 0 from rfl, after_zero] at samples
  rw [frameSymbols_eq, samples, samplesOf, List.range_eq_range']
  rfl

theorem receiveFrame_eq (f : Frame) (s : State) :
    receiveFrame f s = receiveWave (samplesOf (nominalPulse f s.clock)) 52250#32 s := by
  rw [receiveFrame, frameSamples_eq]
  rfl

theorem slotSamples_eq (bs : List Bool) (t0 : Time) (n : Nat) :
    slotSamples bs (after t0 (250 * n)) = (bs.zipIdx n).map fun p => (p.1, after t0 (250 * p.2)) := by
  induction bs generalizing n with
  | nil => rfl
  | cons b bs ih =>
    have next : after t0 (250 * n) + Config.slot = after t0 (250 * (n + 1)) := by
      rw [Nat.mul_succ, ← after_after]
      rfl
    rw [slotSamples, next, ih, List.zipIdx_cons, List.map_cons]

theorem receiveUnlisted_slots (bs : List Bool) (s : State) : receiveUnlisted (.slots bs) s =
    receiveWave (slotsAsSamples bs s.clock) (BitVec.ofNat 32 (250 * bs.length)) s := by
  have samples : slotSamples bs s.clock = slotsAsSamples bs s.clock := by
    simpa [slotsAsSamples] using slotSamples_eq bs s.clock 0
  have dur : BitVec.ofNat 32 bs.length * Config.slot = BitVec.ofNat 32 (250 * bs.length) := by
    rw [Nat.mul_comm, BitVec.ofNat_mul]
    rfl
  rw [receiveUnlisted, samples, dur]

/-- Settles O53: a string of slots is the wave of its samples. -/
theorem otherSlotStringsAreTheirPulses : Obligations.OtherSlotStringsAreTheirPulses := by
  intro bs e s rest unlisted
  have step := step_call_of_error (s := { s with script := .call (.slots bs) :: rest }) rfl unlisted
  rw [receiveUnlisted_slots] at step
  refine ⟨_, step, receiveWave_arrives .., ?_, rfl, rfl, rfl, rfl, rfl, rfl, fun none => ?_⟩
  · simp [receiveWave_eq, slotsAsSamples]
  · refine accepted_eq_iff.mp (rxFeed_none fun r mem => ?_)
    have quiet : Delivery.rx r ∈ List.replicate bs.length (Delivery.rx .none) := none ▸ List.mem_map_of_mem mem
    simpa using List.eq_of_mem_replicate quiet

end Sys2Proof.Claims
end

section
/-!
PROOF. Symbols and frames on the line (R121 to R128, R202): a line last seen high is a low one whose rise is recorded,
and then each pulse is a fall.
-/

namespace Sys2Proof.Claims

open Sys2Proof Sys2Proof.Machine

/-! ## The first pulse, on a low or a high line -/

/-- The group with the line seen low. -/
def lowered (rx : RxGroup) : RxGroup := { rx with lastLevel := false }

/-- When the line rose: the recorded rise, where the receiver saw it on before (R190). -/
def lineRise (rx : RxGroup) (rise : Time) : Time := if rx.lastLevel = true then rx.tRise else rise

theorem lowered_of_low {rx : RxGroup} (low : rx.lastLevel = false) : lowered rx = rx := by
  rw [lowered, ← low]

/-- A pulse on any line is a pulse on a low line from the recorded rise on. -/
theorem rxFeed_firstPulse (rx : RxGroup) (q : Time × Time) :
    rxFeed (pulseEdges q) rx = rxFeed (pulseEdges (lineRise rx q.1, q.2)) (lowered rx) := by
  cases level : rx.lastLevel with
  | false => rw [lowered_of_low level, lineRise, level, if_neg Bool.false_ne_true]
  | true =>
    rw [rxFeed_pulseEdges (rx := lowered rx) rfl, lineRise, if_pos level]
    simp only [pulseEdges, rxFeed, rxSample_same level.symm, quietly, rxSample_fall level, List.append_nil]
    rfl

/-- The pulses with the first one's rise put where the line rose. -/
def fromLineRise (rx : RxGroup) (p : Nat → Time × Time) : Nat → Time × Time
  | 0 => (lineRise rx (p 0).1, (p 0).2)
  | k + 1 => p (k + 1)

theorem bitPulses_fromLineRise (rx : RxGroup) (p : Nat → Time × Time) (n : Nat) :
    bitPulses (fromLineRise rx p) n = bitPulses p n := rfl

theorem rxFeed_samplesOf (rx : RxGroup) (p : Nat → Time × Time) :
    rxFeed (samplesOf p) rx = rxFeed (samplesOf (fromLineRise rx p)) (lowered rx) := by
  rw [samplesOf_eq, samplesOf_eq, bitPulses_fromLineRise, List.append_assoc, List.append_assoc, rxFeed_append,
    rxFeed_firstPulse, rxFeed_append (pulseEdges (fromLineRise rx p 0))]
  rfl

/-! ## A symbol -/

/-- One symbol is one fall, on any line (R90, R192). -/
theorem receiveSymbol_eq (y : Symbol) (s : State) :
    receiveSymbol y s =
      { s.takeRx (rxFall (s.clock + y.on) ((lowered s.rx).risenAt (lineRise s.rx s.clock))) with
        delivered := .rx .none ::
          (s.takeRx (rxFall (s.clock + y.on) ((lowered s.rx).risenAt (lineRise s.rx s.clock)))).delivered
        script := .clock (s.clock + (y.on + y.off)) :: s.script } := by
  have edges : symbolSamples [y] s.clock = pulseEdges (s.clock, s.clock + y.on) := rfl
  rw [receiveSymbol, receiveWave_eq, edges, rxFeed_firstPulse, rxFeed_pulseEdges (rx := lowered s.rx) rfl]
  rfl

/-- On a low line the rise is that of the symbol. -/
theorem receiveSymbol_low {s : State} (low : s.rx.lastLevel = false) (y : Symbol) {o : RxOut}
    (fall : rxFall (s.clock + y.on) (s.rx.risenAt s.clock) = o) :
    receiveSymbol y s = { s.takeRx o with
      delivered := .rx .none :: (s.takeRx o).delivered
      script := .clock (s.clock + (y.on + y.off)) :: s.script } := by
  rw [receiveSymbol_eq, lowered_of_low low, lineRise, low, if_neg Bool.false_ne_true, fall]

/-- The width of a pulse that rose when the clock showed `t`. -/
theorem width_eq (t w : Time) : t + w - t = w := add_sub_cancel_left t w

theorem rxFall_of_start_marker {t : Time} {rx : RxGroup} (start : classifyWidth rx.wStartHi (t - rx.tRise) = .start) :
    rxFall t rx = { rx := { rx with buf := 0#40, count := 0#6, tStart := t }, result := .none, reason := (rxStart t rx).reason } := by
  obtain ⟨group, result⟩ := rxStart_eq t rx
  rw [rxFall_of_start start, ← group, ← result]

theorem rxStart_reasons (t : Time) (rx : RxGroup) : (rxStart t rx).reason.toList = truncation rx := by
  rw [rxStart_reason, truncation]
  split <;> rfl

/-- On a high line the symbol's fall ends the pulse that began at the recorded rise. -/
theorem receiveSymbol_high {s : State} (high : s.rx.lastLevel = true) {i : Instr} {y : Symbol} {on total : Nat}
    (arm : exec i s = .next (receiveSymbol y s)) (on_eq : y.on = BitVec.ofNat 32 on)
    (total_eq : y.on + y.off = BitVec.ofNat 32 total) :
    ∃ t, exec (.rxFall (after s.clock on)) { s with rx := { s.rx with lastLevel := false } } = .next t ∧
      exec i s = .next { t with delivered := .rx .none :: t.delivered,
                                script := .clock (after s.clock total) :: s.script } := by
  have recorded : (lowered s.rx).risenAt (lineRise s.rx s.clock) = lowered s.rx := by
    rw [lineRise, if_pos high]
    rfl
  refine ⟨_, exec_rxFall .., ?_⟩
  rw [arm, receiveSymbol_eq, recorded, total_eq, on_eq]
  rfl

/-- Settles O42: the class of each nominal width on a low line, the fall's own on a high line. -/
theorem symbolOnTheWire : Obligations.SymbolOnTheWire := by
  intro s
  refine ⟨fun low => ⟨fun wide => ?_, fun narrow => ?_, ⟨_, exec_rxBit .., ?_⟩, ⟨_, exec_rxBit .., ?_⟩⟩, fun high => ?_⟩
  · have start : classifyWidth s.rx.wStartHi (s.clock + Symbol.start.on - s.clock) = .start := by
      rw [width_eq, classifyWidth_eq_start_iff]
      exact ⟨by decide, wide⟩
    refine congrArg _ ((receiveSymbol_low low .start (rxFall_of_start_marker start)).trans ?_)
    simp only [State.takeRx, rxStart_reasons]
    rfl
  · have noise : classifyWidth s.rx.wStartHi (s.clock + Symbol.start.on - s.clock) = .noise := by
      rw [width_eq, classifyWidth_eq_noise_iff]
      exact ⟨by decide, by decide, fun start => absurd start.2 (Nat.not_lt.mpr narrow)⟩
    exact congrArg _ (receiveSymbol_low low .start (rxFall_of_noise noise))
  · have one : classifyWidth s.rx.wStartHi (s.clock + Symbol.one.on - s.clock) = .bit true := by
      rw [width_eq, classifyWidth_eq_one_iff]
      decide
    exact congrArg _ (receiveSymbol_low low .one (rxFall_of_bit one))
  · have zero : classifyWidth s.rx.wStartHi (s.clock + Symbol.zero.on - s.clock) = .bit false := by
      rw [width_eq, classifyWidth_eq_zero_iff]
      decide
    exact congrArg _ (receiveSymbol_low low .zero (rxFall_of_bit zero))
  · simp only [List.forall_mem_cons, List.not_mem_nil, false_imp_iff, implies_true, and_true]
    exact ⟨receiveSymbol_high high rfl rfl rfl, receiveSymbol_high high rfl rfl rfl, receiveSymbol_high high rfl rfl rfl⟩

/-! ## A frame whose first pulse is a start marker -/

/-- The 84 samples of pulses that carry a frame, with what RX_COMPLETE answers to the 40th bit (R202). -/
theorem rxFeed_carried {rx : RxGroup} {f : Frame} {p : Nat → Time × Time} (low : rx.lastLevel = false)
    (carries : CarriesFrame rx.wStartHi f p) {o : RxOut} (completed : rxComplete (p 40).2 (rx.receiving f p 40) = o) :
    rxFeed (samplesOf p) rx =
      { rx := o.rx.risenAt (p 41).1
        results := List.replicate 81 .none ++ [o.result] ++ List.replicate 2 .none
        reasons := truncation rx ++ o.reason.toList ++ [.strayBit] } := by
  have frame := rxFeed_frame low carries
  have kept := rxComplete_kept (p 40).2 (rx.receiving f p 40)
  rw [completed] at frame kept
  have trailer := rxFall_trailer (rx := o.rx) (q := p 41) (by rw [kept.count, receiving_count le_rfl])
    (kept.wStartHi ▸ carries.trailer)
  rw [samplesOf_eq, rxFeed_append, frame, rxFeed_pulseEdges (kept.lastLevel.trans low), trailer, rxStart_reasons]
  rfl

/-- The receive group when the 40th bit of a transmission begun at `t0` has come (R195). -/
def received (rx : RxGroup) (f : Frame) (t0 : Time) : RxGroup :=
  { rx with lastLevel := false, count := 40#6, buf := f, tRise := after t0 41250, tStart := after t0 1500 }

/-- The first pulse of a transmission begun at `t0` is a start marker to this receiver (R193). -/
def IsStart (rx : RxGroup) (t0 : Time) : Prop :=
  1300 < measuredWidth rx t0 (after t0 1500) ∧ measuredWidth rx t0 (after t0 1500) < rx.wStartHi.toNat

theorem fromLineRise_carries {rx : RxGroup} {f : Frame} {t0 : Time} (start : IsStart rx t0) :
    CarriesFrame rx.wStartHi f (fromLineRise rx (nominalPulse f t0)) := by
  have first : (nominalPulse f t0 0).1 = t0 := after_zero t0
  refine carriesFrame_of_windows ?_ fun k hk hk' => ?_
  · simp only [fromLineRise, first]
    exact start
  · obtain ⟨k, rfl⟩ := Nat.exists_eq_add_of_le' hk
    rw [fromLineRise, nominalPulse_width f t0 hk', pulseWidth, if_neg (Nat.succ_ne_zero k)]
    split <;> omega

/-- The fall of the 40th bit. -/
def lastBitFall (f : Frame) (t0 : Time) : Time := (nominalPulse f t0 40).2

/-- A transmission on any line, its first pulse a start marker. -/
theorem rxFeed_transmission {rx : RxGroup} {f : Frame} {t0 : Time} (start : IsStart rx t0) {o : RxOut}
    (completed : rxComplete (lastBitFall f t0) (received rx f t0) = o) :
    rxFeed (samplesOf (nominalPulse f t0)) rx =
      { rx := o.rx.risenAt (after t0 42250)
        results := List.replicate 81 .none ++ [o.result] ++ List.replicate 2 .none
        reasons := truncation rx ++ o.reason.toList ++ [.strayBit] } := by
  have group : (lowered rx).receiving f (fromLineRise rx (nominalPulse f t0)) 40 = received rx f t0 := by
    simp [RxGroup.receiving, received, lowered, fromLineRise, nominalPulse, pulseStart, pulseWidth]
  have trailer : (fromLineRise rx (nominalPulse f t0) 41).1 = after t0 42250 := by
    simp [fromLineRise, nominalPulse, pulseStart]
  have counted : truncation (lowered rx) = truncation rx := rfl
  have first : lastBitFall f t0 = (fromLineRise rx (nominalPulse f t0) 40).2 := by simp [lastBitFall, fromLineRise]
  rw [← group, first] at completed
  have carries : CarriesFrame (lowered rx).wStartHi f (fromLineRise rx (nominalPulse f t0)) := fromLineRise_carries start
  have feed := rxFeed_carried (rx := lowered rx) rfl carries completed
  rw [rxFeed_samplesOf, feed, trailer, counted]

/-- The duration of a transmission is inside the gate, whatever its last bit is (R197). -/
theorem transmission_duration (f : Frame) (t0 : Time) :
    37000 ≤ (lastBitFall f t0 - after t0 1500).toNat ∧ (lastBitFall f t0 - after t0 1500).toNat ≤ 42000 := by
  have width : pulseWidth f 40 = 750 ∨ pulseWidth f 40 = 250 := by simpa using pulseWidth_cases f 40
  have start : pulseStart 40 = 41250 := by simp [pulseStart]
  rw [lastBitFall, nominalPulse, start, after_sub_after t0 (by omega) (by omega)]
  omega

/-! ## A frame whose first pulse is no start marker -/

/-- With 40 bits in, or none begun, a pulse that is a bit only moves the recorded rise (R195). -/
theorem rxFeed_strayPulse {rx : RxGroup} (low : rx.lastLevel = false) (full : 40 ≤ rx.count.toNat) {q : Time × Time}
    {b : Bool} (bit : classifyWidth rx.wStartHi (q.2 - q.1) = .bit b) :
    rxFeed (pulseEdges q) rx = { rx := rx.risenAt q.1, results := [.none, .none], reasons := [.strayBit] } := by
  rw [rxFeed_pulseEdges low, rxFall_of_bit (rx := rx.risenAt q.1) bit, rxBit_of_full (by rwa [risenAt_count])]
  rfl

theorem rxFeed_strayPulses {rx : RxGroup} (low : rx.lastLevel = false) (full : 40 ≤ rx.count.toNat)
    {p : Nat → Time × Time} (r0 : Time) {n : Nat}
    (bits : ∀ k < n, ∃ b, classifyWidth rx.wStartHi ((p (k + 1)).2 - (p (k + 1)).1) = .bit b) :
    rxFeed (bitPulses p n) (rx.risenAt r0) =
      { rx := rx.risenAt (if n = 0 then r0 else (p n).1), results := List.replicate (2 * n) .none,
        reasons := List.replicate n .strayBit } := by
  induction n with
  | zero => rfl
  | succ n ih =>
    obtain ⟨b, bit⟩ := bits n (Nat.lt_succ_self n)
    have pulse : ∀ r, rxFeed (pulseEdges (p (n + 1))) (rx.risenAt r) =
        { rx := rx.risenAt (p (n + 1)).1, results := [.none, .none], reasons := [.strayBit] } :=
      fun r => rxFeed_strayPulse (rx := rx.risenAt r) low full bit
    rw [bitPulses_succ, rxFeed_append, ih fun k hk => bits k (Nat.lt_succ_of_lt hk)]
    simp [pulse, Nat.mul_succ, List.replicate_add]

/-- The pulses after the first are bits (R90, R193). -/
theorem nominalPulse_bit (wStartHi : BitVec 12) (f : Frame) (t0 : Time) {k : Nat} (hk : k < 41) :
    ∃ b, classifyWidth wStartHi ((nominalPulse f t0 (k + 1)).2 - (nominalPulse f t0 (k + 1)).1) = .bit b := by
  have width := nominalPulse_width f t0 (k := k + 1) hk
  obtain ⟨zero, -⟩ | ⟨-, w | w⟩ := pulseWidth_cases f (k + 1)
  · exact absurd zero (Nat.succ_ne_zero k)
  · exact ⟨true, classifyWidth_eq_one_iff.mpr (by omega)⟩
  · exact ⟨false, classifyWidth_eq_zero_iff.mpr (by omega)⟩

/-- A pulse of width `w` that is no start marker is a stray bit, or noise (R192, R195). -/
def strayReason (w : Nat) : Reason :=
  if (100 < w ∧ w < 400) ∨ (600 < w ∧ w < 900) then .strayBit else .noiseWidth

theorem rxFall_stray {t : Time} {rx : RxGroup} (full : 40 ≤ rx.count.toNat)
    (notStart : ¬ (1300 < (t - rx.tRise).toNat ∧ (t - rx.tRise).toNat < rx.wStartHi.toNat)) :
    rxFall t rx = discard (strayReason (t - rx.tRise).toNat) rx := by
  unfold strayReason
  obtain ⟨zero, w⟩ | ⟨one, w⟩ | ⟨-, start⟩ | ⟨noise, notZero, notOne, -⟩ := classifyWidth_cases rx.wStartHi (t - rx.tRise)
  · rw [rxFall_of_bit zero, rxBit_of_full full, if_pos (.inl w)]
  · rw [rxFall_of_bit one, rxBit_of_full full, if_pos (.inr w)]
  · exact absurd start notStart
  · rw [rxFall_of_noise noise, if_neg (not_or.mpr ⟨notZero, notOne⟩)]

/-- A transmission that no start marker begins, with no frame in progress: only the line and the last rise change. -/
theorem rxFeed_strayTransmission {rx : RxGroup} {f : Frame} {t0 : Time} (notStart : ¬ IsStart rx t0)
    (full : 40 ≤ rx.count.toNat) :
    rxFeed (samplesOf (nominalPulse f t0)) rx =
      { rx := (lowered rx).risenAt (after t0 42250)
        results := List.replicate 84 .none
        reasons := strayReason (measuredWidth rx t0 (after t0 1500)) :: List.replicate 41 .strayBit } := by
  have first : nominalPulse f t0 0 = (t0, after t0 1500) := by simp [nominalPulse, pulseStart, pulseWidth]
  have fall : rxFall (after t0 1500) ((lowered rx).risenAt (lineRise rx t0)) =
      discard (strayReason (measuredWidth rx t0 (after t0 1500))) ((lowered rx).risenAt (lineRise rx t0)) :=
    rxFall_stray (rx := (lowered rx).risenAt (lineRise rx t0)) full notStart
  have others := rxFeed_strayPulses (rx := lowered rx) rfl full (lineRise rx t0) fun k hk => nominalPulse_bit _ f t0 hk
  have last : (nominalPulse f t0 41).1 = after t0 42250 := by simp [nominalPulse, pulseStart]
  rw [samplesOf_eq, List.append_assoc, ← bitPulses_succ, rxFeed_append, first, rxFeed_firstPulse,
    rxFeed_pulseEdges (rx := lowered rx) rfl, fall]
  simp [Machine.discard, others, last, List.replicate_succ]

/-! ## The obligations on frames -/

/-- A transmission that begins with a start marker, as the state it leaves (R202). -/
theorem receiveFrame_of_start {f : Frame} {s : State} (start : IsStart s.rx s.clock) {o : RxOut}
    (completed : rxComplete (lastBitFall f s.clock) (received s.rx f s.clock) = o) :
    receiveFrame f s = { s with
      rx := o.rx.risenAt (after s.clock 42250)
      delivered := oneReport o.result
      reasons := truncation s.rx ++ o.reason.toList ++ [.strayBit]
      script := .clock (after s.clock 52250) :: s.script } := by
  rw [receiveFrame_eq, receiveWave_eq, rxFeed_transmission start completed]
  simp only [List.map_append, List.map_replicate, List.map_cons, List.map_nil, oneReport, after]

/-- A call without a report is 84 times NONE. -/
theorem oneReport_none : oneReport .none = List.replicate 84 (.rx .none) := rfl

/-- A transmission that DECODE rejects, as the state it leaves. -/
theorem receiveFrame_of_rejected {f : Frame} {s : State} (start : IsStart s.rx s.clock) {r : Reason}
    (rejected : packetDecode f s.rx.keyFilter = .error r) :
    receiveFrame f s = { s with
      rx := (received s.rx f s.clock).risenAt (after s.clock 42250)
      delivered := List.replicate 84 (.rx .none)
      reasons := truncation s.rx ++ [r, .strayBit]
      script := .clock (after s.clock 52250) :: s.script } := by
  obtain ⟨lo, hi⟩ := transmission_duration f s.clock
  rw [receiveFrame_of_start start (rxComplete_of_rejected (rx := received s.rx f s.clock) lo hi rejected)]
  simp only [Machine.discard, oneReport_none, Option.toList_some, List.append_assoc, List.cons_append, List.nil_append]

/-- The row of a frame is its arrival on the line (log entry 5). -/
theorem exec_row {r : FrameRow} (hr : r ∈ frameTable) (key : BitVec 16) (power : BitVec 8) (s : State) :
    exec (r.instr key power) s = .next (receiveFrame (frameOf r.b0 key power r.b4) s) := by
  have rows : ∀ r ∈ frameTable, exec (r.instr key power) s =
      .next (receiveFrame (packetEncode key r.chan r.cmd power).1 s) := by
    simp only [frameTable, List.forall_mem_cons, List.not_mem_nil, false_imp_iff, implies_true, and_true]
    and_intros <;> rfl
  rw [rows r hr, packetEncode_row hr]

/-- The last bit of a row's frame is 0, so its fall is 41500 us after the beginning (R80, R90). -/
theorem lastBitFall_row {r : FrameRow} (hr : r ∈ frameTable) (key : BitVec 16) (power : BitVec 8) (t0 : Time) :
    lastBitFall (frameOf r.b0 key power r.b4) t0 = after t0 41500 :=
  nominalPulse_lastFall (lastBit_of_packetDecode (packetDecode_row hr (.inl rfl) power)) t0

theorem receiveFrame_arrives (f : Frame) (s : State) :
    Arrives (samplesOf (nominalPulse f s.clock)) (after s.clock 52250) s (receiveFrame f s) :=
  receiveFrame_eq f s ▸ receiveWave_arrives (samplesOf (nominalPulse f s.clock)) 52250#32 s

theorem rxReport_reason (d : Tuple) (t : Time) (rx : RxGroup) : (rxReport d t rx).reason = none := by
  obtain ⟨h, -⟩ | ⟨h, -⟩ := rxReport_cases d t rx <;> rw [h]

/-- Settles O40: the transmission of a row's frame, by its first pulse and the key. -/
theorem frameOnTheWireIsReported : Obligations.FrameOnTheWireIsReported := by
  intro r hr key power s w isStart isBit
  have run := exec_row hr key power s
  refine ⟨fun start passes => ?_, fun start paired other => ?_, fun notStart full => ?_, _, run, receiveFrame_arrives ..⟩
  · obtain ⟨lo, hi⟩ := transmission_duration (frameOf r.b0 key power r.b4) s.clock
    have decoded : packetDecode (received s.rx (frameOf r.b0 key power r.b4) s.clock).buf s.rx.keyFilter =
        .ok ⟨key, r.chan, r.cmd, power⟩ := packetDecode_row hr (passes.imp_right Eq.symm) power
    have completed := rxComplete_of_decoded (rx := received s.rx (frameOf r.b0 key power r.b4) s.clock) lo hi decoded
    rw [run, receiveFrame_of_start start completed, rxReport_rx, rxReport_result, rxReport_reason, lastBitFall_row hr,
      Option.toList_none, List.append_nil]
    rfl
  · have mismatch := packetDecode_keyMismatch (f := frameOf r.b0 key power r.b4) (filter := s.rx.keyFilter)
      (by rw [key_frameOf]; exact not_or.mpr ⟨paired, Ne.symm other⟩)
    rw [run, receiveFrame_of_rejected start mismatch]
    rfl
  · rw [run, receiveFrame_eq, receiveWave_eq, rxFeed_strayTransmission notStart full]
    rfl

theorem receiveFrame_transmitSide (f : Frame) (s : State) :
    (receiveFrame f s).tx = s.tx ∧ (receiveFrame f s).ses = s.ses ∧ (receiveFrame f s).txCalls = s.txCalls ∧
      (receiveFrame f s).ka = s.ka := by
  rw [receiveFrame_eq, receiveWave_eq]
  exact ⟨rfl, rfl, rfl, rfl⟩

/-- DECODE rejects a word that no row fits, under every filter. -/
theorem packetDecode_of_illegal {f : Frame} {e : DecodeError} (illegal : decode (.frame f) = .error e)
    (filter : BitVec 16) : ∃ r, packetDecode f filter = .error r := by
  cases decoded : packetDecode f filter with
  | error r => exact ⟨r, rfl⟩
  | ok d =>
    obtain ⟨-, r, hr, fits, -⟩ := packetDecode_ok_iff.mp decoded
    exact absurd (illegal.symm.trans (decodeFrame_eq_ok_iff.mpr ⟨r, hr, fits, rfl⟩)) (by simp)

/-- Settles O41: a word that no row fits is one that DECODE rejects, so RX_COMPLETE discards it. -/
theorem illegalFrameIsRejectedSilently : Obligations.IllegalFrameIsRejectedSilently := by
  intro f e s rest illegal
  have step := step_call_of_error (s := { s with script := .call (.frame f) :: rest }) rfl illegal
  rw [receiveUnlisted] at step
  obtain ⟨tx, ses, txCalls, ka⟩ := receiveFrame_transmitSide f { s with script := rest }
  refine ⟨_, step, receiveFrame_arrives f { s with script := rest }, tx, ses, txCalls, ka, fun lo hi => ?_⟩
  obtain ⟨r, rejected⟩ := packetDecode_of_illegal illegal s.rx.keyFilter
  rw [receiveFrame_of_rejected (s := { s with script := rest }) ⟨lo, hi⟩ rejected]
  and_intros <;> rfl

end Sys2Proof.Claims
end
